-- ==== Sys2Proof/Word.lean ====
section
/-! DEFINITION. The word types of the engine: bytes and 16-bit step descriptors (`00_scope.md` R9, `30_encoding.md` R91). -/

namespace Sys2Proof

/-- A byte: 8 bits, an unsigned value 0 to 255 (R9). -/
abbrev Byte := BitVec 8

/-- A step descriptor: one 16-bit element, read and written whole (R69, R91). -/
abbrev Desc := BitVec 16

end Sys2Proof
end

