-- ==== Sys2Proof/Config.lean ====
section
/-! DEFINITION. The fixed sizes of the engine (`00_scope.md` R6, R7).
The spec leaves no value open (`93_implementation_defined.md`, part 1), so there is no free value here. -/

namespace Sys2Proof.Config

/-- `QCAP`: entries of the step queue (R7). DESIGN CHOICE (safe, log entry 9): exactly 56, where R7 allows more. -/
abbrev qcap : Nat := 56

/-- `HCAP`: entries of the history (R7). DESIGN CHOICE (safe, log entry 9): exactly 56, where R7 allows more. -/
abbrev hcap : Nat := 56

/-- `BUFCAP`: characters of each input buffer (R7). DESIGN CHOICE (safe, log entry 9): exactly 64, where R7 allows more. -/
abbrev bufcap : Nat := 64

/-- Bytes of the key-schedule store: 60 words of 4 bytes (R7). -/
abbrev ksBytes : Nat := 240

/-- Bytes of `ST`: the AES block (R6); a DES block uses the first 8 (R23). -/
abbrev blockBytes : Nat := 16

end Sys2Proof.Config
end

