-- ==== Sys2Proof/Syntax.lean ====
section
/-! DEFINITION. The instructions: one constructor per row of `spec/opcode_table.json`. -/

namespace Sys2Proof

/-- The ten step descriptors of format D16 (R93), each with its `ROUND` field, and the six host commands of
format C8 (R100), which carry no operand (R102). `DES_IP` and `DES_FP` keep their `ROUND` field too: a word with a
`ROUND` other than 0 is a word the fetch can meet, and the legality check refuses it (R94, R95). -/
inductive Instr where
  /-- AddRoundKey with round key `round` (R192). -/
  | ark (round : Byte)
  /-- SubBytes (R193). -/
  | sb (round : Byte)
  /-- ShiftRows (R194). -/
  | sr (round : Byte)
  /-- MixColumns (R195). -/
  | mc (round : Byte)
  /-- InvSubBytes (R196). -/
  | isb (round : Byte)
  /-- InvShiftRows (R197). -/
  | isr (round : Byte)
  /-- InvMixColumns (R198). -/
  | imc (round : Byte)
  /-- DES initial permutation (R212). -/
  | desIp (round : Byte)
  /-- One DES Feistel round with key `K[round]` (R214). -/
  | desRnd (round : Byte)
  /-- DES final swap and final permutation (R216). -/
  | desFp (round : Byte)
  /-- Start a session (R234). -/
  | init
  /-- Start draining the queue (R242). -/
  | run
  /-- Hold the next step (R243). -/
  | pause
  /-- Continue a held run (R244). -/
  | resume
  /-- Execute exactly one queued step (R245). -/
  | step
  /-- Discard the session (R246). -/
  | reset
  deriving DecidableEq, Repr

end Sys2Proof
end

