-- ==== Sys2Proof/WellFormed.lean ====
section
/-! DEFINITION. Well-formed instructions: a step descriptor some session could hold (`30_encoding.md` R93), and every
command. Whether a descriptor is legal in the session at hand is the machine's own check, `Machine.legal` (R94). -/

namespace Sys2Proof

/-- The `ROUND` ranges of R93 at the largest `S_NR`, 14 (AES-256); R93's table gives them per kind. -/
def Instr.wellFormed : Instr → Bool
  | .ark r => r.toNat ≤ 14
  | .sb r => 1 ≤ r.toNat && r.toNat ≤ 14
  | .sr r => 1 ≤ r.toNat && r.toNat ≤ 14
  | .mc r => 1 ≤ r.toNat && r.toNat ≤ 13
  | .isb r => r.toNat ≤ 13
  | .isr r => r.toNat ≤ 13
  | .imc r => 1 ≤ r.toNat && r.toNat ≤ 13
  | .desIp r => r.toNat = 0
  | .desRnd r => r.toNat ≤ 15
  | .desFp r => r.toNat = 0
  | .init => true
  | .run => true
  | .pause => true
  | .resume => true
  | .step => true
  | .reset => true

end Sys2Proof
end

