-- ==== Sys2Proof/Decode.lean ====
section
/-! DEFINITION. Decoding and encoding of formats D16 and C8 (`30_encoding.md` R90 to R101, R124). Total on every
word; a reserved encoding is rejected by name. -/

namespace Sys2Proof

/-- Why a word is no instruction. -/
inductive Reject where
  /-- A descriptor whose `KIND` is 0x00 or 0x0B to 0xFF (R95). -/
  | reservedKind (kind : Byte)
  /-- A command code 0x00 or 0x07 to 0xFF (R101). -/
  | reservedCommand (code : Byte)
  deriving DecidableEq, Repr

/-- One encoded instruction, in its format (R90): the format is known from where the word stands (`Q` or `CMD`). -/
inductive Encoded where
  | d16 (d : Desc)
  | c8 (c : Byte)
  deriving DecidableEq, Repr

/-- `d[15:8]` (R91). -/
def kindOf (d : Desc) : Byte := d.extractLsb' 8 8

/-- `d[7:0]` (R91). -/
def roundOf (d : Desc) : Byte := d.extractLsb' 0 8

/-- `KIND * 256 + ROUND` (R92). -/
def mkDesc (kind round : Byte) : Desc := kind ++ round

/-- Decode a step descriptor: read `KIND`, reject a code outside 0x01 to 0x0A (R124). The session's algorithm and
`ROUND` range are checked by the machine (R94). -/
def decodeD16 (d : Desc) : Except Reject Instr :=
  match (kindOf d).toNat with
  | 1 => .ok (.ark (roundOf d))
  | 2 => .ok (.sb (roundOf d))
  | 3 => .ok (.sr (roundOf d))
  | 4 => .ok (.mc (roundOf d))
  | 5 => .ok (.isb (roundOf d))
  | 6 => .ok (.isr (roundOf d))
  | 7 => .ok (.imc (roundOf d))
  | 8 => .ok (.desIp (roundOf d))
  | 9 => .ok (.desRnd (roundOf d))
  | 10 => .ok (.desFp (roundOf d))
  | _ => .error (.reservedKind (kindOf d))

/-- Decode a command: compare the whole byte (R100, R124). -/
def decodeC8 (c : Byte) : Except Reject Instr :=
  match c.toNat with
  | 1 => .ok .init
  | 2 => .ok .run
  | 3 => .ok .pause
  | 4 => .ok .resume
  | 5 => .ok .step
  | 6 => .ok .reset
  | _ => .error (.reservedCommand c)

/-- Decode a word of either format. -/
def decode : Encoded → Except Reject Instr
  | .d16 d => decodeD16 d
  | .c8 c => decodeC8 c

/-- The word of an instruction: R93's `KIND` codes for descriptors, R100's codes for commands. -/
def encode : Instr → Encoded
  | .ark r => .d16 (mkDesc 0x01 r)
  | .sb r => .d16 (mkDesc 0x02 r)
  | .sr r => .d16 (mkDesc 0x03 r)
  | .mc r => .d16 (mkDesc 0x04 r)
  | .isb r => .d16 (mkDesc 0x05 r)
  | .isr r => .d16 (mkDesc 0x06 r)
  | .imc r => .d16 (mkDesc 0x07 r)
  | .desIp r => .d16 (mkDesc 0x08 r)
  | .desRnd r => .d16 (mkDesc 0x09 r)
  | .desFp r => .d16 (mkDesc 0x0A r)
  | .init => .c8 0x01
  | .run => .c8 0x02
  | .pause => .c8 0x03
  | .resume => .c8 0x04
  | .step => .c8 0x05
  | .reset => .c8 0x06

/-- The descriptor of a step; 0x0000, which is never a step (R95), for a command, which has none. -/
def descOf (i : Instr) : Desc :=
  match encode i with
  | .d16 d => d
  | .c8 _ => 0x0000

/-- What the decoder reads from a word numbered as `spec/opcode_table.json` numbers it: 16 bits are a descriptor,
8 bits a command. -/
def decodeTableWord (nbits w : Nat) : Option Instr :=
  if nbits = 16 then (decodeD16 (BitVec.ofNat 16 w)).toOption
  else if nbits = 8 then (decodeC8 (BitVec.ofNat 8 w)).toOption
  else none

end Sys2Proof
end

