-- ==== Sys2Proof/Machine/State.lean ====
section
/-! DEFINITION. The state of the machine as plain data (`10_state.md` R20 to R45), its reset value, and the reasons a
step can stop. -/

namespace Sys2Proof.Machine

/-- `S_ALG`: AES = 0, DES = 1 (R35). -/
inductive Alg where
  | aes
  | des
  deriving DecidableEq, Repr

/-- `S_KEYSIZE`: 0 = 128, 1 = 192, 2 = 256 (R35).
DEDUCED (safe, log entry 8): the 2-bit code 3 is no value of this register. -/
inductive KeySize where
  | k128
  | k192
  | k256
  deriving DecidableEq, Repr

/-- `S_MODE`: ENC = 0, DEC = 1 (R35). -/
inductive Mode where
  | enc
  | dec
  deriving DecidableEq, Repr

/-- `SEQ`: READY = 0, RUNNING = 1, PAUSED = 2, COMPLETE = 3 (R31). -/
inductive Seq where
  | ready
  | running
  | paused
  | complete
  deriving DecidableEq, Repr

/-- The latched configuration of a session (R35). -/
structure Session where
  alg : Alg
  keySize : KeySize
  mode : Mode
  deriving DecidableEq, Repr

/-- The three error kinds (R300). -/
inductive ErrorKind where
  | validation
  | configuration
  | internalInvariant
  deriving DecidableEq, Repr

/-- The nine error codes, each of one kind (R302). -/
inductive ErrorCode where
  | textLength
  | textNonhex
  | keyLength
  | keyNonhex
  | badAlg
  | badKeysize
  | badMode
  | badDescriptor
  | drainMismatch
  deriving DecidableEq, Repr

/-- `ST`, a round key or a snapshot: 16 bytes (R21, R29). -/
abbrev Block := Vector Byte Config.blockBytes

/-- `KS` (R24). -/
abbrev KeyStore := Vector Byte Config.ksBytes

/-- The event records (R116), as the abstract records the rule offers; `eventBytes` gives the byte form.
DESIGN CHOICE (safe, log entry 15). -/
inductive Event where
  | stepStart (d : Desc)
  | stepComplete (d : Desc) (x : List Byte)
  | runComplete (x : List Byte)
  | error (e : ErrorCode)
  deriving DecidableEq, Repr

/-- One host transition other than power-on (R13): a register write or a register read. A register that takes one
index uses `i`, one that takes two uses `i` then `j`; an index a register does not take is ignored.
DESIGN CHOICE (safe, log entry 6): indices and the written value are naturals of any size. -/
inductive HostAct where
  | write (reg : Byte) (i j value : Nat)
  | read (reg : Byte) (i j : Nat)
  deriving DecidableEq, Repr

/-- One turn of the total order of transitions (R74): the host's or the engine's. -/
inductive Turn where
  | host (a : HostAct)
  | engine
  deriving DecidableEq, Repr

/-- Why the machine stops. Neither stop is met in a state that satisfies the invariant of Safety.lean. -/
inductive Fault where
  /-- Raised by the step fetch (engine transition or `STEP`) when `QHEAD` is 56 or more, which names no entry of `Q`.
  DEDUCED (safe, log entry 7): the spec gives `Q` no such entry (R27) and `QHEAD` no such value (R28). -/
  | queueOverrun
  /-- Raised by the commit of a step when `QHEAD` is 56 or more, which names no entry of the history.
  DEDUCED (safe, log entry 7): the spec gives `HD` and `HS` no such entry (R29). -/
  | historyOverrun
  deriving DecidableEq, Repr

/-- Why an instruction has no meaning. -/
inductive Refusal where
  /-- Raised by an arm of `exec` whose instruction has no meaning yet (safe: nothing can be proved of it); no arm does. -/
  | notModelled (mnemonic : String)
  deriving DecidableEq, Repr

/-- The whole state: session storage, sequencer control and host interface state of R20, in that order, then the
model's own two fields for the host agent and the order of transitions. -/
structure State where
  /-- `ST[0..15]` (R21). -/
  st : Block
  /-- `KS[0..239]` (R24, R25). -/
  ks : KeyStore
  /-- `Q[0..55]` (R27). -/
  q : Vector Desc Config.qcap
  /-- `QLEN` (R27). -/
  qlen : BitVec 8
  /-- `QHEAD`, the program counter (R28). -/
  qhead : BitVec 8
  /-- `HD[0..55]` (R29). -/
  hd : Vector Desc Config.hcap
  /-- `HS[0..55][0..15]` (R29). -/
  hs : Vector Block Config.hcap
  /-- `ROUND` (R30). -/
  round : BitVec 8
  /-- `S_ALG` (R35). -/
  sAlg : Alg
  /-- `S_KEYSIZE` (R35). -/
  sKeysize : KeySize
  /-- `S_MODE` (R35). -/
  sMode : Mode
  /-- `SEQ` (R31). -/
  seq : Seq
  /-- `LOADED` (R32). -/
  loaded : Bool
  /-- `FATAL` (R34). -/
  fatal : Bool
  /-- `CONFIG` (R36). -/
  config : BitVec 8
  /-- `TEXT_BUF[0..63]` (R40). -/
  textBuf : Vector Byte Config.bufcap
  /-- `TEXT_LEN` (R40). -/
  textLen : BitVec 8
  /-- `KEY_BUF[0..63]` (R40). -/
  keyBuf : Vector Byte Config.bufcap
  /-- `KEY_LEN` (R40). -/
  keyLen : BitVec 8
  /-- `ERR` (R39). -/
  err : BitVec 8
  /-- `EVT`, oldest record first (R41). -/
  evt : List Event
  /-- The model's own: the turns still to come, next first. DESIGN CHOICE (safe, log entry 1): the total order of
  R74 is data, and a statement about every state is a statement about every order R75 leaves open. -/
  script : List Turn
  /-- The model's own: the elements host reads have returned (R275), oldest first. DESIGN CHOICE (safe, log entry 2). -/
  seen : List (BitVec 16)
  deriving DecidableEq, Repr

/-- The answer of a step. -/
abbrev Answer := Host.Outcome State Fault Refusal

/-- A block of zero bytes. -/
abbrev zeroBlock : Block := Vector.replicate Config.blockBytes 0

/-- The machine after power-on reset: the table of R45, and no turns planned and nothing read yet.
DEDUCED (safe, log entry 16): power-on reset is this state and no transition (R340). -/
def State.reset : State where
  st := zeroBlock
  ks := Vector.replicate Config.ksBytes 0
  q := Vector.replicate Config.qcap 0
  qlen := 0
  qhead := 0
  hd := Vector.replicate Config.hcap 0
  hs := Vector.replicate Config.hcap zeroBlock
  round := 0
  sAlg := .aes
  sKeysize := .k128
  sMode := .enc
  seq := .ready
  loaded := false
  fatal := false
  config := 0x00
  textBuf := Vector.replicate Config.bufcap 0
  textLen := 0
  keyBuf := Vector.replicate Config.bufcap 0
  keyLen := 0
  err := 0x00
  evt := []
  script := []
  seen := []

end Sys2Proof.Machine
end

