-- ==== Sys2Proof/Machine/Store.lean ====
section
/-! DEFINITION. Reading and writing one element of a storage array (`20_memory.md` R60, R61, R65; `00_scope.md` R12). -/

namespace Sys2Proof.Machine

/-- `MemRead(space, i)`: element `i`, or `d` where the array has no such element. -/
def readElem {α : Type} {n : Nat} (v : Vector α n) (i : Nat) (d : α) : α :=
  if h : i < n then v[i] else d

/-- `MemWrite(space, i, x)`; an index outside the array writes nothing. -/
def writeElem {α : Type} {n : Nat} (v : Vector α n) (i : Nat) (x : α) : Vector α n :=
  if h : i < n then v.set i x h else v

end Sys2Proof.Machine
end

