-- ==== Sys2Proof/Machine/Primitives.lean ====
section
/-! DEFINITION. The four primitives (`40_primitives_and_tables.md` R130 to R135) and the bit-string view of bytes
(`00_scope.md` R10). A bit-string of `n` bits is a `BitVec n` whose position 1 is the most significant bit. -/

namespace Sys2Proof.Machine

/-- The loop of R131, `k` iterations left. -/
def gfLoop : Nat → Byte → Byte → Byte → Byte
  | 0, acc, _, _ => acc
  | k + 1, acc, a, b =>
    gfLoop k (if b.getLsbD 0 then acc ^^^ a else acc)
      (if a.getLsbD 7 then (a <<< 1) ^^^ 0x1B else a <<< 1) (b >>> 1)

/-- `gfMultiply(a, b)`: the product in GF(2^8) reduced by 0x11B (R131). -/
def gfMultiply (a b : Byte) : Byte := gfLoop 8 0 a b

/-- `b[p]`: the bit at position `p`, counted from 1 at the left (R10). -/
def bitAt {n : Nat} (x : BitVec n) (p : Nat) : Bool := x.getMsbD (p - 1)

/-- The bit-string whose bits are listed left to right. -/
def ofBits (m : Nat) (bs : List Bool) : BitVec m :=
  bs.foldl (fun acc b => (acc <<< 1) ||| (BitVec.ofBool b).setWidth m) 0

/-- `permute(bits, table)`: output position `j` is input position `table[j]` (R133). The table's length is the
output's length `m`. -/
def permute {n : Nat} (m : Nat) (x : BitVec n) (table : List Nat) : BitVec m :=
  ofBits m (table.map (bitAt x))

/-- `xorBits(a, b)` (R134). -/
def xorBits {n : Nat} (a b : BitVec n) : BitVec n := a ^^^ b

/-- `leftRotate(bits, n)`: the first `n` bits move to the right-hand end (R135). -/
def leftRotate {m : Nat} (x : BitVec m) (n : Nat) : BitVec m := x.rotateLeft n

end Sys2Proof.Machine
end

