-- ==== Sys2Proof/Machine/Operands.lean ====
section
/-! DEFINITION. Every operand form: the session's derived constants (R35), the legality of a descriptor (R93, R94),
the AES and DES views of `ST` and `KS` (R22 to R25, R174), and hexadecimal text (R110, R111). -/

namespace Sys2Proof.Machine

/-- The latched configuration as one value (R35). -/
def sessionOf (s : State) : Session := ⟨s.sAlg, s.sKeysize, s.sMode⟩

/-- `S_NK` for AES: 4, 6, 8 key words (R35, R173). -/
def sNk (k : KeySize) : Nat :=
  match k with
  | .k128 => 4
  | .k192 => 6
  | .k256 => 8

/-- `S_NR`: 10, 12, 14 for AES and 16 for DES (R35). -/
def sNr (ses : Session) : Nat :=
  match ses.alg with
  | .aes => sNk ses.keySize + 6
  | .des => 16

/-- `S_BB`: the block size in bytes, 16 for AES and 8 for DES (R35). -/
def sBb (a : Alg) : Nat :=
  match a with
  | .aes => 16
  | .des => 8

/-- `legal(d)` for the instruction of a descriptor: the session's algorithm is the kind's, and `ROUND` lies in its
range (R93, R94). A command is no descriptor. -/
def legal (ses : Session) (i : Instr) : Bool :=
  match i with
  | .ark r => ses.alg = .aes && r.toNat ≤ sNr ses
  | .sb r => ses.alg = .aes && 1 ≤ r.toNat && r.toNat ≤ sNr ses
  | .sr r => ses.alg = .aes && 1 ≤ r.toNat && r.toNat ≤ sNr ses
  | .mc r => ses.alg = .aes && 1 ≤ r.toNat && r.toNat ≤ sNr ses - 1
  | .isb r => ses.alg = .aes && r.toNat ≤ sNr ses - 1
  | .isr r => ses.alg = .aes && r.toNat ≤ sNr ses - 1
  | .imc r => ses.alg = .aes && 1 ≤ r.toNat && r.toNat ≤ sNr ses - 1
  | .desIp r => ses.alg = .des && r.toNat = 0
  | .desRnd r => ses.alg = .des && r.toNat ≤ 15
  | .desFp r => ses.alg = .des && r.toNat = 0
  | .init => false
  | .run => false
  | .pause => false
  | .resume => false
  | .step => false
  | .reset => false

/-- `s[r][c] = ST[4*c + r]` (R22). -/
def cell (b : Block) (r c : Fin 4) : Byte :=
  b[4 * c.val + r.val]'(by have := r.isLt; have := c.isLt; simp only [Config.blockBytes]; omega)

/-- The block whose byte `4*c + r` is `f r c` (R22). -/
def ofCells (f : Fin 4 → Fin 4 → Byte) : Block :=
  Vector.ofFn fun n : Fin 16 => f ⟨n.val % 4, by omega⟩ ⟨n.val / 4, by omega⟩

/-- `RK[r] = KS[16r .. 16r+15]` (R174). -/
def aesRoundKey (ks : KeyStore) (r : Nat) : Block :=
  Vector.ofFn fun n : Fin 16 => readElem ks (16 * r + n.val) 0

/-- `K[k]`: the 48 bits of `KS[6k .. 6k+5]`, position 1 the most significant bit of `KS[6k]` (R25). -/
def desRoundKey (ks : KeyStore) (k : Nat) : BitVec 48 :=
  let b := fun m => readElem ks (6 * k + m) 0
  b 0 ++ b 1 ++ b 2 ++ b 3 ++ b 4 ++ b 5

/-- `B[1..64]`: the bits of `ST[0..7]`, position 1 the most significant bit of `ST[0]` (R23, R66). -/
def desBits (b : Block) : BitVec 64 :=
  b[0] ++ b[1] ++ b[2] ++ b[3] ++ b[4] ++ b[5] ++ b[6] ++ b[7]

/-- `L = B[1..32]` (R23). -/
def leftHalf (b : BitVec 64) : BitVec 32 := b.extractLsb' 32 32

/-- `R = B[33..64]` (R23). -/
def rightHalf (b : BitVec 64) : BitVec 32 := b.extractLsb' 0 32

/-- Write `B` to `ST[0..7]`. DEDUCED (safe, log entry 11): a DES step writes these eight bytes and no other (R71). -/
def desStore (x : BitVec 64) (b : Block) : Block :=
  Vector.ofFn fun n : Fin 16 => if n.val < 8 then x.extractLsb' (56 - 8 * n.val) 8 else b[n]

/-- `hexval(c)`, none for a non-hexadecimal code (R110). -/
def hexval (c : Byte) : Option Byte :=
  if 0x30 ≤ c.toNat ∧ c.toNat ≤ 0x39 then some (c - 0x30)
  else if 0x41 ≤ c.toNat ∧ c.toNat ≤ 0x46 then some (c - 0x41 + 10)
  else if 0x61 ≤ c.toNat ∧ c.toNat ≤ 0x66 then some (c - 0x61 + 10)
  else none

/-- `hexchar(v)` for a nibble `v` (R111). -/
def hexchar (v : BitVec 4) : Byte :=
  if v.toNat ≤ 9 then 0x30 + v.setWidth 8 else 0x41 + (v.setWidth 8 - 10)

/-- Some character among the first `n` of a buffer is non-hexadecimal (R236). -/
def hasNonHex (buf : Vector Byte Config.bufcap) (n : Nat) : Bool :=
  (List.range n).any fun m => (hexval (readElem buf m 0)).isNone

/-- `byte[m] = 16*hexval(c[2m]) + hexval(c[2m+1])` (R110), of a buffer whose characters were checked (R236). -/
def hexByte (buf : Vector Byte Config.bufcap) (m : Nat) : Byte :=
  16 * (hexval (readElem buf (2 * m) 0)).getD 0 + (hexval (readElem buf (2 * m + 1) 0)).getD 0

/-- The bytes parsed from the first `2n` characters of a buffer (R110, R237). -/
def parseBytes (buf : Vector Byte Config.bufcap) (n : Nat) : List Byte := (List.range n).map (hexByte buf)

/-- Block load: `ST[n] <- blk[n]`, and 0 where the block has no byte `n` (R190, R210). -/
def loadBlock (blk : List Byte) : Block := Vector.ofFn fun n : Fin 16 => blk.getD n.val 0

/-- `ST[0 .. S_BB-1]`: the block an event carries (R116, R285). -/
def outBlock (s : State) : List Byte := s.st.toList.take (sBb s.sAlg)

end Sys2Proof.Machine
end

