-- ==== Sys2Proof/Machine/Flags.lean ====
section
/-! DEFINITION. Every flag and status computation: the fields of `CONFIG` (R36), the registers computed from it (R37),
`STATUS` and `STATUS2` (R38), and the numbering of errors (R302). -/

namespace Sys2Proof.Machine

/-- `CONFIG[1:0]` (R36). -/
def cfgAlgField (c : BitVec 8) : BitVec 2 := c.extractLsb' 0 2

/-- `CONFIG[3:2]` (R36). -/
def cfgKeysizeField (c : BitVec 8) : BitVec 2 := c.extractLsb' 2 2

/-- `CONFIG[5:4]` (R36). -/
def cfgModeField (c : BitVec 8) : BitVec 2 := c.extractLsb' 4 2

/-- `ALG`: 0 AES, 1 DES, 2 and 3 reserved (R36). -/
def algOfField (f : BitVec 2) : Option Alg :=
  match f.toNat with
  | 0 => some .aes
  | 1 => some .des
  | _ => none

/-- `KEYSIZE`: 0 is 128, 1 is 192, 2 is 256, 3 reserved (R36). -/
def keySizeOfField (f : BitVec 2) : Option KeySize :=
  match f.toNat with
  | 0 => some .k128
  | 1 => some .k192
  | 2 => some .k256
  | _ => none

/-- `MODE`: 0 encrypt, 1 decrypt, 2 and 3 reserved (R36). -/
def modeOfField (f : BitVec 2) : Option Mode :=
  match f.toNat with
  | 0 => some .enc
  | 1 => some .dec
  | _ => none

/-- The register code of `S_ALG` (R35). -/
def algCode (a : Alg) : BitVec 1 :=
  match a with
  | .aes => 0
  | .des => 1

/-- The register code of `S_KEYSIZE` (R35). -/
def keySizeCode (k : KeySize) : BitVec 2 :=
  match k with
  | .k128 => 0
  | .k192 => 1
  | .k256 => 2

/-- The register code of `S_MODE` (R35). -/
def modeCode (m : Mode) : BitVec 1 :=
  match m with
  | .enc => 0
  | .dec => 1

/-- The register code of `SEQ` (R31). -/
def seqCode (q : Seq) : BitVec 2 :=
  match q with
  | .ready => 0
  | .running => 1
  | .paused => 2
  | .complete => 3

/-- Required text length in characters: 32 for AES, 16 for DES (R37, R236). -/
def textLenOf (a : Alg) : Nat :=
  match a with
  | .aes => 32
  | .des => 16

/-- Required key length in characters: 32, 48, 64 for AES, 16 for DES (R37, R236). -/
def keyLenOf (a : Alg) (k : KeySize) : Nat :=
  match a with
  | .aes => 8 * sNk k
  | .des => 16

/-- `NR`: 10, 12, 14 for AES, 16 for DES, 0 for a reserved setting (R37). -/
def nrReg (c : BitVec 8) : BitVec 8 :=
  match algOfField (cfgAlgField c), keySizeOfField (cfgKeysizeField c) with
  | some .aes, some k => BitVec.ofNat 8 (sNr ⟨.aes, k, .enc⟩)
  | some .aes, none => 0
  | some .des, _ => 16
  | none, _ => 0

/-- `KEYLEN`: the required key length, 0 for a reserved setting (R37). -/
def keylenReg (c : BitVec 8) : BitVec 8 :=
  match algOfField (cfgAlgField c), keySizeOfField (cfgKeysizeField c) with
  | some .aes, some k => BitVec.ofNat 8 (keyLenOf .aes k)
  | some .aes, none => 0
  | some .des, _ => 16
  | none, _ => 0

/-- `TEXTLEN`: the required text length, 0 for a reserved `ALG` (R37). -/
def textlenReg (c : BitVec 8) : BitVec 8 :=
  match algOfField (cfgAlgField c) with
  | some a => BitVec.ofNat 8 (textLenOf a)
  | none => 0

/-- `STATUS`: bit 7 zero, `S_MODE`, `S_ALG`, `FATAL`, `PAUSE`, `LOADED`, `SEQ` (R38). -/
def statusReg (s : State) : BitVec 8 :=
  (0 : BitVec 1) ++ modeCode s.sMode ++ algCode s.sAlg ++ BitVec.ofBool s.fatal
    ++ BitVec.ofBool (s.seq = .paused) ++ BitVec.ofBool s.loaded ++ seqCode s.seq

/-- `STATUS2`: `S_KEYSIZE` in bits 1:0, other bits 0 (R38). -/
def status2Reg (s : State) : BitVec 8 := (keySizeCode s.sKeysize).setWidth 8

/-- The kind of an error code (R302). -/
def errorKind (e : ErrorCode) : ErrorKind :=
  match e with
  | .textLength => .validation
  | .textNonhex => .validation
  | .keyLength => .validation
  | .keyNonhex => .validation
  | .badAlg => .configuration
  | .badKeysize => .configuration
  | .badMode => .configuration
  | .badDescriptor => .internalInvariant
  | .drainMismatch => .internalInvariant

/-- The number of an error kind (R302). -/
def errorKindNumber (k : ErrorKind) : BitVec 4 :=
  match k with
  | .validation => 1
  | .configuration => 2
  | .internalInvariant => 3

/-- The number of an error code within its kind (R302). -/
def errorNumber (e : ErrorCode) : BitVec 4 :=
  match e with
  | .textLength => 1
  | .textNonhex => 2
  | .keyLength => 3
  | .keyNonhex => 4
  | .badAlg => 1
  | .badKeysize => 2
  | .badMode => 3
  | .badDescriptor => 1
  | .drainMismatch => 2

/-- `ERR` of an error: the kind in bits 7:4, the code in bits 3:0 (R39, R302). -/
def errorByte (e : ErrorCode) : BitVec 8 := errorKindNumber (errorKind e) ++ errorNumber e

end Sys2Proof.Machine
end

