-- ==== Sys2Proof/Machine/KeySchedule.lean ====
section
/-! DEFINITION. The two key schedules (`41_key_schedule.md` R170 to R183), computed inside `INIT`. -/

namespace Sys2Proof.Machine

/-- A word of the AES schedule: a byte sequence `[b0, b1, b2, b3]`, never a number (R11, R171). -/
abbrev AesWord := Vector Byte 4

/-- A word of zero bytes. -/
def zeroWord : AesWord := Vector.replicate 4 0

/-- `RotWord(t)` (R171). -/
def rotWord (t : AesWord) : AesWord := #v[t[1], t[2], t[3], t[0]]

/-- `SubWord(t)` (R171). -/
def subWord (t : AesWord) : AesWord := Vector.ofFn fun n : Fin 4 => sbox t[n]

/-- `t XOR u`, byte by byte (R171). -/
def xorWord (t u : AesWord) : AesWord := Vector.ofFn fun n : Fin 4 => t[n] ^^^ u[n]

/-- The root key's words (R172, first loop). -/
def keyWords (key : List Byte) (nk : Nat) : List AesWord :=
  (List.range nk).map fun i =>
    #v[key.getD (4 * i) 0, key.getD (4 * i + 1) 0, key.getD (4 * i + 2) 0, key.getD (4 * i + 3) 0]

/-- `temp` of R172 for word `i`, from the word before it. -/
def scheduleTemp (nk i : Nat) (prev : AesWord) : AesWord :=
  if i % nk = 0 then
    xorWord (subWord (rotWord prev)) #v[rcon (i / nk - 1), 0, 0, 0]
  else if 6 < nk ∧ i % nk = 4 then subWord prev
  else prev

/-- `W[i] <- W[i-Nk] XOR temp`, `i` being the number of words so far (R172). -/
def nextWord (nk : Nat) (w : List AesWord) : AesWord :=
  xorWord (w.getD (w.length - nk) zeroWord) (scheduleTemp nk w.length (w.getD (w.length - 1) zeroWord))

/-- `k` more words (R172, second loop). -/
def expandWords (nk : Nat) : Nat → List AesWord → List AesWord
  | 0, w => w
  | k + 1, w => expandWords nk k (w ++ [nextWord nk w])

/-- `W[0 .. 4*(Nr+1)-1]` with `Nr = Nk + 6` (R172). -/
def aesSchedule (key : List Byte) (nk : Nat) : List AesWord :=
  expandWords nk (4 * (nk + 6 + 1) - nk) (keyWords key nk)

/-- `KS[4i .. 4i+3] <- W[i]`, all other bytes 0 (R172). -/
def storeWords (w : List AesWord) : KeyStore :=
  Vector.ofFn fun n : Fin 240 => (w.getD (n.val / 4) zeroWord)[n.val % 4]

/-- The round keys from halves `C` and `D` and the shift counts still to come (R180). -/
def desKeysFrom : List Nat → BitVec 28 → BitVec 28 → List (BitVec 48)
  | [], _, _ => []
  | n :: ns, c, d =>
    permute 48 (leftRotate c n ++ leftRotate d n) pc2Table :: desKeysFrom ns (leftRotate c n) (leftRotate d n)

/-- `K[0..15]` of a 64-bit key (R180). The key made in schedule round `n` is `K[n-1]` (R181). -/
def desSchedule (key : BitVec 64) : List (BitVec 48) :=
  let cd := permute 56 key pc1Table
  desKeysFrom shiftsTable (cd.extractLsb' 28 28) (cd.extractLsb' 0 28)

/-- `KS[6k .. 6k+5] <- K[k]`, all other bytes 0 (R180). -/
def storeDesKeys (keys : List (BitVec 48)) : KeyStore :=
  Vector.ofFn fun n : Fin 240 => (keys.getD (n.val / 6) 0).extractLsb' (40 - 8 * (n.val % 6)) 8

/-- The key schedule of a session's key bytes (R170, R237 statement 12). -/
def keySchedule (ses : Session) (key : List Byte) : KeyStore :=
  match ses.alg with
  | .aes => storeWords (aesSchedule key (sNk ses.keySize))
  | .des => storeDesKeys (desSchedule (desBits (loadBlock key)))

end Sys2Proof.Machine
end

