-- ==== Sys2Proof/Machine/Ops.lean ====
section
/-! DEFINITION. The named operations over the state: emitting an event (R12), taking an error (R310), the session reset
(R342), fetching a descriptor (R239), and committing a step (R240, R241). -/

namespace Sys2Proof.Machine

/-- `emit E`: append a record to `EVT` (R12, R41). -/
def emit (e : Event) (s : State) : State := { s with evt := s.evt ++ [e] }

/-- `SEQ <- q`. -/
def setSeq (q : Seq) (s : State) : State := { s with seq := q }

/-- `raise K(c)`: the error entry of R310. `ERR` takes the kind and code, one `Error` record is emitted, kind 3 sets
`FATAL`, and nothing else changes. There is no return from it (R312). -/
def raise (e : ErrorCode) (s : State) : State :=
  { s with
    err := errorByte e
    evt := s.evt ++ [.error e]
    fatal := s.fatal || errorKind e = .internalInvariant }

/-- The session reset of R342: the session, its queue and history, and the sequencer control are cleared; `CONFIG`, the
input buffers, their lengths and `EVT` are kept.
DEDUCED (unsafe, log entry 18): `ERR` is cleared in an empty `READY` too. -/
def sessionReset (s : State) : State :=
  { s with
    st := zeroBlock
    ks := Vector.replicate Config.ksBytes 0
    q := Vector.replicate Config.qcap 0
    qlen := 0
    qhead := 0
    hd := Vector.replicate Config.hcap 0
    hs := Vector.replicate Config.hcap zeroBlock
    round := 0
    sAlg := .aes
    sKeysize := .k128
    sMode := .enc
    seq := .ready
    loaded := false
    fatal := false
    err := 0x00 }

/-- An engine transition is enabled iff `SEQ = RUNNING` and `FATAL = 0` (R238). -/
def engineEnabled (s : State) : Bool := s.seq = .running && !s.fatal

/-- What the step fetch meets at `Q[QHEAD]` (R239). -/
inductive Fetched where
  /-- `QHEAD` names no entry of `Q`. -/
  | outside
  /-- The word has a reserved `KIND`, so it is not legal (R95). -/
  | reserved
  /-- The word is a descriptor of one of the ten kinds. -/
  | instr (i : Instr)
  deriving DecidableEq, Repr

/-- `d <- MemRead(Q, QHEAD)`, decoded (R239 statement 1).
DEDUCED (safe, log entry 14): it reads `Q[QHEAD]` whatever `QLEN` is. -/
def fetchInstr (s : State) : Fetched :=
  if s.qhead.toNat < Config.qcap then
    match decodeD16 (readElem s.q s.qhead.toNat 0) with
    | .ok i => .instr i
    | .error _ => .reserved
  else .outside

/-- Statements 4 to 7 of R240: the new state, its history entry, the round counter and the program counter. -/
def record (d : Desc) (x : Block) (s : State) : State :=
  { s with
    st := x
    hd := writeElem s.hd s.qhead.toNat d
    hs := writeElem s.hs s.qhead.toNat x
    round := roundOf d
    qhead := s.qhead + 1 }

/-- The terminal descriptor `t` of a session (R241 statement 10). -/
def terminalDesc (ses : Session) : Desc :=
  match ses.alg, ses.mode with
  | .aes, .enc => 0x0100 + BitVec.ofNat 16 (sNr ses)
  | .aes, .dec => 0x0100
  | .des, _ => 0x0A00

/-- Completion, R241 statements 11 to 13, after the step `d` that made `QHEAD = QLEN`. -/
def complete (d : Desc) (s : State) : State :=
  if d = terminalDesc (sessionOf s) then emit (.runComplete (outBlock s)) (setSeq .complete s)
  else raise .drainMismatch s

/-- R240 statements 3 to 8 with the new block `x`: `StepStart`, the commit, `StepComplete`. -/
def commitStep (d : Desc) (x : Block) (s : State) : State :=
  let t := record d x (emit (.stepStart d) s)
  emit (.stepComplete d (outBlock t)) t

/-- R240 and R241 whole: commit, then complete when the queue is drained. -/
def finishStep (d : Desc) (x : Block) (s : State) : State :=
  let t := commitStep d x s
  if t.qhead = t.qlen then complete d t else t

/-- One atomic step with the descriptor instruction `i` whose data path gives the block `x`: the legality check (R239
statement 2), then R240 and R241. A history with no entry `QHEAD` stops the machine (log entry 7).
DEDUCED (safe, log entry 13): whether a step is enabled is checked where one starts (R238, R245), not here. -/
def atomicStep (i : Instr) (x : Block) (s : State) : Answer :=
  if legal (sessionOf s) i then
    if s.qhead.toNat < Config.hcap then .next (finishStep (descOf i) x s) else .fault .historyOverrun
  else .next (raise .badDescriptor s)

end Sys2Proof.Machine
end

