-- ==== Sys2Proof/Machine/Aes.lean ====
section
/-! DEFINITION. The seven AES steps (`42_aes_steps.md` R192 to R198): the data path of each as a function of `ST` and
`KS`, and its meaning as an atomic step. -/

namespace Sys2Proof.Machine

/-- `ST'[n] <- ST[n] XOR RK[r][n]` (R192). -/
def addRoundKey (ks : KeyStore) (r : Nat) (b : Block) : Block :=
  Vector.ofFn fun n : Fin 16 => b[n] ^^^ (aesRoundKey ks r)[n]

/-- `ST'[n] <- SBOX[ST[n]]` (R193). -/
def subBytes (b : Block) : Block := Vector.ofFn fun n : Fin 16 => sbox b[n]

/-- `s'[i][c] <- s[i][(c + i) mod 4]` (R194). -/
def shiftRows (b : Block) : Block := ofCells fun i c => cell b i (c + i)

/-- `s'[i][c] = XOR over k of gfMultiply(s[k][c], M[i][k])` (R195, R198). -/
def mulColumns (m : Fin 4 → Fin 4 → Byte) (b : Block) : Block :=
  ofCells fun i c =>
    gfMultiply (cell b 0 c) (m i 0) ^^^ gfMultiply (cell b 1 c) (m i 1)
      ^^^ gfMultiply (cell b 2 c) (m i 2) ^^^ gfMultiply (cell b 3 c) (m i 3)

/-- Each column left-multiplied by `MDS` (R195). -/
def mixColumns (b : Block) : Block := mulColumns mds b

/-- `ST'[n] <- INV_SBOX[ST[n]]` (R196). -/
def invSubBytes (b : Block) : Block := Vector.ofFn fun n : Fin 16 => invSbox b[n]

/-- `s'[i][c] = s[i][(c - i) mod 4]` (R197). -/
def invShiftRows (b : Block) : Block := ofCells fun i c => cell b i (c - i)

/-- Each column left-multiplied by `INV_MDS` (R198). -/
def invMixColumns (b : Block) : Block := mulColumns invMds b

/-- `ARK r` (R192). -/
def execArk (r : Byte) (s : State) : Answer := atomicStep (.ark r) (addRoundKey s.ks r.toNat s.st) s

/-- `SB r` (R193). -/
def execSb (r : Byte) (s : State) : Answer := atomicStep (.sb r) (subBytes s.st) s

/-- `SR r` (R194). -/
def execSr (r : Byte) (s : State) : Answer := atomicStep (.sr r) (shiftRows s.st) s

/-- `MC r` (R195). -/
def execMc (r : Byte) (s : State) : Answer := atomicStep (.mc r) (mixColumns s.st) s

/-- `ISB r` (R196). -/
def execIsb (r : Byte) (s : State) : Answer := atomicStep (.isb r) (invSubBytes s.st) s

/-- `ISR r` (R197). -/
def execIsr (r : Byte) (s : State) : Answer := atomicStep (.isr r) (invShiftRows s.st) s

/-- `IMC r` (R198). -/
def execImc (r : Byte) (s : State) : Answer := atomicStep (.imc r) (invMixColumns s.st) s

end Sys2Proof.Machine
end

