-- ==== Sys2Proof/Machine/Des.lean ====
section
/-! DEFINITION. The Feistel function and the three DES steps (`43_des_steps.md` R211 to R216). -/

namespace Sys2Proof.Machine

/-- `SDES[n]` applied to a 6-bit block `b[1..6]`: row `2*b[1] + b[6]`, column `8*b[2] + 4*b[3] + 2*b[4] + b[5]` (R158). -/
def sboxOut (n : Nat) (b : BitVec 6) : BitVec 4 :=
  sdes n (2 * (bitAt b 1).toNat + (bitAt b 6).toNat)
    (8 * (bitAt b 2).toNat + 4 * (bitAt b 3).toNat + 2 * (bitAt b 4).toNat + (bitAt b 5).toNat)

/-- `x[6n-5 .. 6n]`, the `n`-th 6-bit block, `n` in 1..8 (R211). -/
def sixBits (x : BitVec 48) (n : Nat) : BitVec 6 := x.extractLsb' (48 - 6 * n) 6

/-- The eight S-box outputs joined, the first leftmost (R211). -/
def substitute (x : BitVec 48) : BitVec 32 :=
  let v := fun n => sboxOut n (sixBits x n)
  v 1 ++ v 2 ++ v 3 ++ v 4 ++ v 5 ++ v 6 ++ v 7 ++ v 8

/-- `F(R, K)` (R211). -/
def feistelF (r : BitVec 32) (k : BitVec 48) : BitVec 32 :=
  permute 32 (substitute (xorBits (permute 48 r eTable) k)) pTable

/-- `permute(B, IP)` (R212). -/
def initialPermutation (b : BitVec 64) : BitVec 64 := permute 64 b ipTable

/-- `L' <- R`, `R' <- xorBits(L, F(R, K))` (R214). -/
def feistelRound (k : BitVec 48) (b : BitVec 64) : BitVec 64 :=
  rightHalf b ++ xorBits (leftHalf b) (feistelF (rightHalf b) k)

/-- `permute(R || L, FP)` (R216). -/
def finalPermutation (b : BitVec 64) : BitVec 64 := permute 64 (rightHalf b ++ leftHalf b) fpTable

/-- `DES_IP` on `ST` (R212). -/
def desInitial (b : Block) : Block := desStore (initialPermutation (desBits b)) b

/-- `DES_RND k` on `ST` (R214). -/
def desRound (ks : KeyStore) (k : Nat) (b : Block) : Block :=
  desStore (feistelRound (desRoundKey ks k) (desBits b)) b

/-- `DES_FP` on `ST` (R216). -/
def desFinal (b : Block) : Block := desStore (finalPermutation (desBits b)) b

/-- `DES_IP` (R212). -/
def execDesIp (r : Byte) (s : State) : Answer := atomicStep (.desIp r) (desInitial s.st) s

/-- `DES_RND k` (R214). -/
def execDesRnd (k : Byte) (s : State) : Answer := atomicStep (.desRnd k) (desRound s.ks k.toNat s.st) s

/-- `DES_FP` (R216). -/
def execDesFp (r : Byte) (s : State) : Answer := atomicStep (.desFp r) (desFinal s.st) s

end Sys2Proof.Machine
end

