-- ==== Sys2Proof/Machine/Commands.lean ====
section
/-! DEFINITION. The step list (`44_sequencer.md` R232, R233) and the six host commands (R234 to R246). -/

namespace Sys2Proof.Machine

/-- AES encryption: `ARK 0`, then `SB r`, `SR r`, `MC r` unless `r = Nr`, `ARK r` for `r` in 1..`Nr` (R232). -/
def aesEncSteps (nr : Nat) : List Instr :=
  .ark 0 :: (List.range nr).flatMap fun j =>
    let r := BitVec.ofNat 8 (j + 1)
    if j + 1 < nr then [.sb r, .sr r, .mc r, .ark r] else [.sb r, .sr r, .ark r]

/-- AES decryption: `ARK Nr`, then `ISR r`, `ISB r`, `ARK r`, `IMC r` unless `r = 0` for `r` from `Nr-1` down to 0
(R232). -/
def aesDecSteps (nr : Nat) : List Instr :=
  .ark (BitVec.ofNat 8 nr) :: (List.range nr).reverse.flatMap fun j =>
    let r := BitVec.ofNat 8 j
    if 0 < j then [.isr r, .isb r, .ark r, .imc r] else [.isr r, .isb r, .ark r]

/-- DES: `DES_IP`, sixteen `DES_RND` with ascending keys for encryption and descending for decryption, `DES_FP`
(R233). -/
def desSteps (m : Mode) : List Instr :=
  let round := fun j : Nat =>
    match m with
    | .enc => Instr.desRnd (BitVec.ofNat 8 j)
    | .dec => Instr.desRnd (BitVec.ofNat 8 (15 - j))
  .desIp 0 :: (List.range 16).map round ++ [.desFp 0]

/-- The enumerated step list of a session (R232, R233). -/
def stepList (ses : Session) : List Instr :=
  match ses.alg, ses.mode with
  | .aes, .enc => aesEncSteps (sNr ses)
  | .aes, .dec => aesDecSteps (sNr ses)
  | .des, m => desSteps m

/-- `Q` of a session: the list's descriptors, 0x0000 from `QLEN` on (R232, R233). -/
def queueOf (ses : Session) : Vector Desc Config.qcap :=
  let ds := (stepList ses).map descOf
  Vector.ofFn fun n : Fin 56 => ds.getD n.val 0x0000

/-- `QLEN` of a session: the number of descriptors enumerated (R232, R233). -/
def qlenOf (ses : Session) : BitVec 8 := BitVec.ofNat 8 (stepList ses).length

/-- `INIT` phase 1, the configuration check, in the order of R235. `KEYSIZE` is not checked for DES, whose sessions
latch it as 0 (R237 statement 10). -/
def checkConfig (c : BitVec 8) : Except ErrorCode Session :=
  match algOfField (cfgAlgField c) with
  | none => .error .badAlg
  | some .aes =>
    match keySizeOfField (cfgKeysizeField c) with
    | none => .error .badKeysize
    | some k =>
      match modeOfField (cfgModeField c) with
      | none => .error .badMode
      | some m => .ok ⟨.aes, k, m⟩
  | some .des =>
    match modeOfField (cfgModeField c) with
    | none => .error .badMode
    | some m => .ok ⟨.des, .k128, m⟩

/-- `INIT` phase 2, the input validation, in the order of R236: the first failing check, none if all pass. -/
def checkInputs (ses : Session) (s : State) : Option ErrorCode :=
  let tl := textLenOf ses.alg
  let kl := keyLenOf ses.alg ses.keySize
  if s.textLen.toNat ≠ tl then some .textLength
  else if hasNonHex s.textBuf tl then some .textNonhex
  else if s.keyLen.toNat ≠ kl then some .keyLength
  else if hasNonHex s.keyBuf kl then some .keyNonhex
  else none

/-- `INIT` phase 3, construction (R237): the implicit session reset (R343), then the new session. No event. -/
def construct (ses : Session) (s : State) : State :=
  { sessionReset s with
    sAlg := ses.alg
    sKeysize := ses.keySize
    sMode := ses.mode
    ks := keySchedule ses (parseBytes s.keyBuf (keyLenOf ses.alg ses.keySize / 2))
    st := loadBlock (parseBytes s.textBuf (textLenOf ses.alg / 2))
    q := queueOf ses
    qlen := qlenOf ses
    qhead := 0
    round := 0
    seq := .ready
    loaded := true
    fatal := false
    err := 0x00 }

/-- `INIT` (R234): check the configuration, validate the inputs, then construct; a check that raises changes `ERR` and
`EVT` only (R256). -/
def execInit (s : State) : Answer :=
  match checkConfig s.config with
  | .error e => .next (raise e s)
  | .ok ses =>
    match checkInputs ses s with
    | some e => .next (raise e s)
    | none => .next (construct ses s)

/-- `RUN` (R242). -/
def execRun (s : State) : Answer :=
  .next (if s.seq = .ready ∧ s.loaded = true ∧ s.fatal = false then setSeq .running s else s)

/-- `PAUSE` (R243). -/
def execPause (s : State) : Answer :=
  .next (if s.seq = .running ∧ s.fatal = false then setSeq .paused s else s)

/-- `RESUME` (R244). -/
def execResume (s : State) : Answer :=
  .next (if s.seq = .paused ∧ s.fatal = false then setSeq .running s else s)

/-- The atomic step of a fetched descriptor, for `STEP`: the meaning of the instruction decoded. A command is no
descriptor, so it is not legal (R94). -/
def runDescriptor (i : Instr) (s : State) : Answer :=
  match i with
  | .ark r => execArk r s
  | .sb r => execSb r s
  | .sr r => execSr r s
  | .mc r => execMc r s
  | .isb r => execIsb r s
  | .isr r => execIsr r s
  | .imc r => execImc r s
  | .desIp r => execDesIp r s
  | .desRnd r => execDesRnd r s
  | .desFp r => execDesFp r s
  | .init => .next (raise .badDescriptor s)
  | .run => .next (raise .badDescriptor s)
  | .pause => .next (raise .badDescriptor s)
  | .resume => .next (raise .badDescriptor s)
  | .step => .next (raise .badDescriptor s)
  | .reset => .next (raise .badDescriptor s)

/-- R239 and R240 from the fetch on. -/
def runQueued (s : State) : Answer :=
  match fetchInstr s with
  | .outside => .fault .queueOverrun
  | .reserved => .next (raise .badDescriptor s)
  | .instr i => runDescriptor i s

/-- After a step that raised no error, `READY` becomes `PAUSED` (R245).
DEDUCED (safe, log entry 10): `STEP` acts only while `FATAL = 0`, and both errors of a step set `FATAL` (R306), so no
error was raised iff `FATAL` is still 0. -/
def holdAfterStep (s : State) : State :=
  if s.fatal = false ∧ s.seq = .ready then setSeq .paused s else s

/-- `STEP` (R245): one atomic step inside this host transition, when one is queued. -/
def execStep (s : State) : Answer :=
  if s.loaded = true ∧ s.fatal = false ∧ s.qhead < s.qlen then
    match runQueued s with
    | .next t => .next (holdAfterStep t)
    | .fault r => .fault r
    | .refused r => .refused r
  else .next s

/-- `RESET` (R246): the session reset, in every state. -/
def execReset (s : State) : Answer := .next (sessionReset s)

end Sys2Proof.Machine
end

