-- ==== Sys2Proof/Machine/Dispatch.lean ====
section
/-! DEFINITION. The meaning of every instruction, one arm per row of `spec/opcode_table.json`. -/

namespace Sys2Proof.Machine

def exec (i : Instr) (s : State) : Host.Outcome State Fault Refusal :=
  match i with
  | .ark r => Sys2Proof.Machine.execArk r s
  | .sb r => Sys2Proof.Machine.execSb r s
  | .sr r => Sys2Proof.Machine.execSr r s
  | .mc r => Sys2Proof.Machine.execMc r s
  | .isb r => Sys2Proof.Machine.execIsb r s
  | .isr r => Sys2Proof.Machine.execIsr r s
  | .imc r => Sys2Proof.Machine.execImc r s
  | .desIp r => Sys2Proof.Machine.execDesIp r s
  | .desRnd r => Sys2Proof.Machine.execDesRnd r s
  | .desFp r => Sys2Proof.Machine.execDesFp r s
  | .init => Sys2Proof.Machine.execInit s
  | .run => Sys2Proof.Machine.execRun s
  | .pause => Sys2Proof.Machine.execPause s
  | .resume => Sys2Proof.Machine.execResume s
  | .step => Sys2Proof.Machine.execStep s
  | .reset => Sys2Proof.Machine.execReset s

end Sys2Proof.Machine
end

