-- ==== Sys2Proof/Machine/HostPort.lean ====
section
/-! DEFINITION. The host register space (`30_encoding.md` R104, `45_host_interface.md` R270 to R280), but for `CMD`,
whose writes perform commands and are in Step.lean. -/

namespace Sys2Proof.Machine

/-- The mapped registers (R104). -/
inductive HostReg where
  | cmd
  | config
  | status
  | nr
  | keylen
  | textlen
  | round
  | qhead
  | qlen
  | err
  | status2
  | textLen
  | keyLen
  | textBuf
  | keyBuf
  | state
  | outHex
  | rkey
  | queue
  | histDesc
  | histSnap
  deriving DecidableEq, Repr

/-- The register of a register number; every other number is unmapped (R65, R104). -/
def hostReg (n : Byte) : Option HostReg :=
  if n = 0x00 then some .cmd
  else if n = 0x01 then some .config
  else if n = 0x02 then some .status
  else if n = 0x03 then some .nr
  else if n = 0x04 then some .keylen
  else if n = 0x05 then some .textlen
  else if n = 0x06 then some .round
  else if n = 0x07 then some .qhead
  else if n = 0x08 then some .qlen
  else if n = 0x09 then some .err
  else if n = 0x0A then some .status2
  else if n = 0x10 then some .textLen
  else if n = 0x11 then some .keyLen
  else if n = 0x20 then some .textBuf
  else if n = 0x21 then some .keyBuf
  else if n = 0x30 then some .state
  else if n = 0x31 then some .outHex
  else if n = 0x32 then some .rkey
  else if n = 0x33 then some .queue
  else if n = 0x34 then some .histDesc
  else if n = 0x35 then some .histSnap
  else none

/-- `OUT_HEX[n]`: the uppercase hexadecimal text of the session's block, 0 beyond it (R280). -/
def outHex (s : State) (n : Nat) : Byte :=
  if n < 2 * sBb s.sAlg then
    let b := readElem s.st (n / 2) 0
    if n % 2 = 0 then hexchar (b.extractLsb' 4 4) else hexchar (b.extractLsb' 0 4)
  else 0

/-- `RKEY[r][n]`: byte `n` of round key `r` in the latched algorithm's view, 0 out of range (R278). -/
def rkey (s : State) (r n : Nat) : Byte :=
  match s.sAlg with
  | .aes => if r ≤ 14 ∧ n ≤ 15 then readElem s.ks (16 * r + n) 0 else 0
  | .des => if r ≤ 15 ∧ n ≤ 5 then readElem s.ks (6 * r + n) 0 else 0

/-- `CONFIG` as it reads: bits 7:6 are 0 (R36).
DEDUCED (safe, log entry 12): they read 0 in every state, even one that no run reaches. -/
def configReg (s : State) : BitVec 8 := s.config &&& 0x3F

/-- The element a read of a mapped register returns (R275 to R280); 8-bit elements are placed in 16 bits. -/
def readReg (r : HostReg) (i j : Nat) (s : State) : BitVec 16 :=
  match r with
  | .cmd => 0
  | .config => (configReg s).setWidth 16
  | .status => (statusReg s).setWidth 16
  | .nr => (nrReg s.config).setWidth 16
  | .keylen => (keylenReg s.config).setWidth 16
  | .textlen => (textlenReg s.config).setWidth 16
  | .round => s.round.setWidth 16
  | .qhead => s.qhead.setWidth 16
  | .qlen => s.qlen.setWidth 16
  | .err => s.err.setWidth 16
  | .status2 => (status2Reg s).setWidth 16
  | .textLen => s.textLen.setWidth 16
  | .keyLen => s.keyLen.setWidth 16
  | .textBuf => (readElem s.textBuf i 0).setWidth 16
  | .keyBuf => (readElem s.keyBuf i 0).setWidth 16
  | .state => (readElem s.st i 0).setWidth 16
  | .outHex => (outHex s i).setWidth 16
  | .rkey => (rkey s i j).setWidth 16
  | .queue => readElem s.q i 0
  | .histDesc => readElem s.hd i 0
  | .histSnap => (readElem (readElem s.hs i zeroBlock) j 0).setWidth 16

/-- A host read: an unmapped number returns 0 (R65, R275). -/
def hostRead (n : Byte) (i j : Nat) (s : State) : BitVec 16 :=
  match hostReg n with
  | some r => readReg r i j s
  | none => 0

/-- A host write of a register other than `CMD`: five registers store, every other number is ignored (R270 to R274). -/
def hostWrite (n : Byte) (i value : Nat) (s : State) : State :=
  match hostReg n with
  | some .config => { s with config := BitVec.ofNat 8 value &&& 0x3F }
  | some .textLen => { s with textLen := BitVec.ofNat 8 value }
  | some .keyLen => { s with keyLen := BitVec.ofNat 8 value }
  | some .textBuf => { s with textBuf := writeElem s.textBuf i (BitVec.ofNat 8 value) }
  | some .keyBuf => { s with keyBuf := writeElem s.keyBuf i (BitVec.ofNat 8 value) }
  | _ => s

/-- The value a host read returns joins the values the host has received (log entry 2). -/
def receive (v : BitVec 16) (s : State) : State := { s with seen := s.seen ++ [v] }

/-- The turn taken leaves the turns still to come (log entry 1). -/
def setScript (ts : List Turn) (s : State) : State := { s with script := ts }

end Sys2Proof.Machine
end

