-- ==== Sys2Proof/Machine/Step.lean ====
section
/-! DEFINITION. One transition of the machine (`00_scope.md` R13, R17, `44_sequencer.md` R230, R238): the next turn of
the script, or an engine turn when the script is empty. -/

namespace Sys2Proof.Machine

/-- An enabled engine transition: fetch `Q[QHEAD]` and execute it (R239). -/
def runFetched (s : State) : Host.Outcome State Fault Refusal :=
  match fetchInstr s with
  | .outside => .fault .queueOverrun
  | .reserved => .next (raise .badDescriptor s)
  | .instr i => exec i s

/-- The engine's turn: one atomic step when enabled, otherwise no transition of its own (R238). -/
def engineTurn (s : State) : Host.Outcome State Fault Refusal :=
  if engineEnabled s then runFetched s else .next s

/-- A write of `CMD`: the low 8 bits are a command code, performed here; a reserved code has no effect (R101, R271). -/
def commandWrite (value : Nat) (s : State) : Host.Outcome State Fault Refusal :=
  match decodeC8 (BitVec.ofNat 8 value) with
  | .ok i => exec i s
  | .error _ => .next s

/-- One host transition (R13, R270, R275). -/
def hostTurn (a : HostAct) (s : State) : Host.Outcome State Fault Refusal :=
  match a with
  | .write n i _ value => if hostReg n = some .cmd then commandWrite value s else .next (hostWrite n i value s)
  | .read n i j => .next (receive (hostRead n i j s) s)

/-- One transition. DESIGN CHOICE (safe, log entries 1, 4): the script says whose turn it is; after its end the engine
moves, and an engine turn with no enabled transition leaves the state as it is. -/
def step (s : State) : Host.Outcome State Fault Refusal :=
  match s.script with
  | [] => engineTurn s
  | .engine :: ts => engineTurn (setScript ts s)
  | .host a :: ts => hostTurn a (setScript ts s)

/-- The algorithm whose sessions hold the kind of a descriptor (R93): DES for 0x08 to 0x0A, AES otherwise. -/
def algOfKind (d : Desc) : Alg :=
  if 8 ≤ (kindOf d).toNat ∧ (kindOf d).toNat ≤ 10 then .des else .aes

/-- A descriptor placed at `Q[QHEAD]` of a running session of its algorithm, with the engine to move next. -/
def withDescriptor (d : Desc) (s : State) : State :=
  let h : BitVec 8 := if s.qhead.toNat < 56 then s.qhead else 0
  { s with
    q := writeElem s.q h.toNat d
    qhead := h
    qlen := qlenOf ⟨algOfKind d, s.sKeysize, s.sMode⟩
    sAlg := algOfKind d
    seq := .running
    loaded := true
    fatal := false
    script := if s.script = [] then [] else .engine :: s.script }

/-- `s` with an instruction placed where the next step fetches it: a descriptor in `Q`, a command as the host's next
write of `CMD` (log entry 3). A width that is no instruction's changes nothing. -/
def State.withFetchWord (s : State) (nbits w : Nat) : State :=
  if nbits = 16 then withDescriptor (BitVec.ofNat 16 w) s
  else if nbits = 8 then { s with script := .host (.write 0x00 0 0 w) :: s.script }
  else s

end Sys2Proof.Machine
end

