-- ==== Sys2Proof/Machine/Replay.lean ====
section
/-! DEFINITION. The data path of a step list, apart from the machine: what each descriptor does to `ST` given `KS`
(`30_encoding.md` R92: a descriptor is self-contained), and a whole list of them (`44_sequencer.md` R250, R251). -/

namespace Sys2Proof.Machine

/-- The new block of a step descriptor (R192 to R198, R212 to R216); a command has no data path. -/
def dataPath (i : Instr) (ks : KeyStore) (b : Block) : Block :=
  match i with
  | .ark r => addRoundKey ks r.toNat b
  | .sb _ => subBytes b
  | .sr _ => shiftRows b
  | .mc _ => mixColumns b
  | .isb _ => invSubBytes b
  | .isr _ => invShiftRows b
  | .imc _ => invMixColumns b
  | .desIp _ => desInitial b
  | .desRnd k => desRound ks k.toNat b
  | .desFp _ => desFinal b
  | .init => b
  | .run => b
  | .pause => b
  | .resume => b
  | .step => b
  | .reset => b

/-- The instruction is a step descriptor, not a command (R90). -/
def isStepInstr (i : Instr) : Bool :=
  match encode i with
  | .d16 _ => true
  | .c8 _ => false

/-- The data path of a descriptor word; a word that is no descriptor changes nothing. -/
def dataPathOfDesc (d : Desc) (ks : KeyStore) (b : Block) : Block :=
  match decodeD16 d with
  | .ok i => dataPath i ks b
  | .error _ => b

/-- The block after a list of steps, first step first. -/
def replay (ks : KeyStore) : List Instr → Block → Block
  | [], b => b
  | i :: is, b => replay ks is (dataPath i ks b)

end Sys2Proof.Machine
end

