-- ==== Sys2Proof/Machine/Text.lean ====
section
/-! DEFINITION. The pure functions beside the machine: hexadecimal output text (`30_encoding.md` R111), event records as
bytes (R116), label text (R120), the binary rendering (`45_host_interface.md` R282), and the host program notation and
pseudo-instructions (R121, R122) as lists of turns. No rule of the machine depends on them. -/

namespace Sys2Proof.Machine

/-- The uppercase hexadecimal text of a byte sequence (R111). -/
def hexText (xs : List Byte) : List Byte :=
  xs.flatMap fun x => [hexchar (x.extractLsb' 4 4), hexchar (x.extractLsb' 0 4)]

/-- An event record as bytes (R116); a descriptor's `KIND` byte comes first (R69). -/
def eventBytes (e : Event) : List Byte :=
  match e with
  | .stepStart d => [0x01, kindOf d, roundOf d]
  | .stepComplete d x => 0x02 :: kindOf d :: roundOf d :: x
  | .runComplete x => 0x03 :: x
  | .error c => [0x04, errorByte c]

/-- The label text of a descriptor's instruction (R120); a command has no label. -/
def labelText (i : Instr) : Option String :=
  match i with
  | .ark r => some ("Round " ++ Nat.repr r.toNat ++ ": AddRoundKey")
  | .sb r => some ("Round " ++ Nat.repr r.toNat ++ ": SubBytes")
  | .sr r => some ("Round " ++ Nat.repr r.toNat ++ ": ShiftRows")
  | .mc r => some ("Round " ++ Nat.repr r.toNat ++ ": MixColumns")
  | .isb r => some ("Round " ++ Nat.repr r.toNat ++ ": InvSubBytes")
  | .isr r => some ("Round " ++ Nat.repr r.toNat ++ ": InvShiftRows")
  | .imc r => some ("Round " ++ Nat.repr r.toNat ++ ": InvMixColumns")
  | .desIp _ => some "Initial Permutation"
  | .desRnd k => some ("Round " ++ Nat.repr (k.toNat + 1) ++ ": Feistel")
  | .desFp _ => some "Final Permutation"
  | .init => none
  | .run => none
  | .pause => none
  | .resume => none
  | .step => none
  | .reset => none

/-- Eight binary digits, most significant first, as character codes (R282). -/
def byteDigits (x : Byte) : List Byte :=
  (List.range 8).map fun n => if x.getMsbD n then 0x31 else 0x30

/-- `bin(X)`: the digits of each byte, one space between groups (R282). -/
def binText (xs : List Byte) : List Byte :=
  match xs with
  | [] => []
  | [x] => byteDigits x
  | x :: y :: zs => byteDigits x ++ 0x20 :: binText (y :: zs)

/-- `WR name[i] = value` (R121). -/
def wr (n : Byte) (i value : Nat) : Turn := .host (.write n i 0 value)

/-- `RD name[i][j]` (R121). -/
def rd (n : Byte) (i j : Nat) : Turn := .host (.read n i j)

/-- `CMD code` (R121). -/
def cmd (code : Byte) : Turn := wr 0x00 0 code.toNat

/-- `ENGINE n` (R121). -/
def engine (n : Nat) : List Turn := List.replicate n .engine

/-- `CONFIG alg, keysize, mode` (R122). -/
def configProg (ses : Session) : List Turn :=
  [wr 0x01 0 ((algCode ses.alg).toNat + 4 * (keySizeCode ses.keySize).toNat + 16 * (modeCode ses.mode).toNat)]

/-- The writes of `TEXT` and `KEY`: the length, then the characters in order (R122). -/
def bufferProg (lenReg bufReg : Byte) (cs : List Byte) : List Turn :=
  wr lenReg 0 cs.length :: (List.range cs.length).map fun n => wr bufReg n (cs.getD n 0).toNat

/-- `TEXT "s"`, the string as its character codes (R122). -/
def textProg (cs : List Byte) : List Turn := bufferProg 0x10 0x20 cs

/-- `KEY "s"` (R122). -/
def keyProg (cs : List Byte) : List Turn := bufferProg 0x11 0x21 cs

/-- `WAIT COMPLETE` (R122), unrolled: the host polls `STATUS` once after each of `n` engine turns.
DESIGN CHOICE (safe, log entry 5): the script does not react to what a read returns, so the number of polls is given. -/
def waitProg (n : Nat) : List Turn := (List.replicate n [Turn.engine, rd 0x02 0 0]).flatten

/-- `RD OUT_HEX[0 .. 2*S_BB-1]` (R122). -/
def readOutProg (a : Alg) : List Turn := (List.range (2 * sBb a)).map fun n => rd 0x31 n 0

/-- `ENCRYPT` and `DECRYPT` (R122), by the session's mode, polling once per step of the session's list. -/
def cipherProg (ses : Session) (text key : List Byte) : List Turn :=
  configProg ses ++ textProg text ++ keyProg key ++ [cmd 0x01, cmd 0x02]
    ++ waitProg (qlenOf ses).toNat ++ readOutProg ses.alg

end Sys2Proof.Machine
end

