-- ==== Sys2Proof/Safety.lean ====
section
/-! DEFINITION. What counts as a safe state and as an untouched one, in the terms the statements use: the session
invariants of `10_state.md` R44, the storage facts of R23 to R29, and the shared clauses of a committed step. -/

namespace Sys2Proof.Machine

/-- R44 (b), R32: with no session loaded, session storage and sequencer control are those of a session reset (only
`ERR` may hold an error). -/
abbrev EmptyInv (s : State) : Prop := s.loaded = false → s = { sessionReset s with err := s.err }

/-- R44 (a), (c), R27: a loaded session's queue is the list enumerated for it, and `QHEAD` stays within it. -/
abbrev QueueInv (s : State) : Prop :=
  s.loaded = true →
    s.q = queueOf (sessionOf s) ∧ s.qlen = qlenOf (sessionOf s) ∧ s.qhead ≤ s.qlen
      ∧ (s.sAlg = .des → s.sKeysize = .k128)

/-- R44 (d), (e), (f): `COMPLETE` iff the queue is drained, and `READY` only before the first step. -/
abbrev SeqInv (s : State) : Prop :=
  s.loaded = true → (s.seq = .complete ↔ s.qhead = s.qlen) ∧ (s.seq = .ready → s.qhead = 0)

/-- R306: no run reaches an internal invariant error. -/
abbrev NoFatalInv (s : State) : Prop := s.fatal = false

/-- R44 (g), R29: entry `e < QHEAD` of the history holds the descriptor of step `e` and the block after it, each block
is the step's data path on the one before, the last is `ST`, and the entries from `QHEAD` on are zero. -/
abbrev HistoryInv (s : State) : Prop :=
  (∀ e, e < 56 → e < s.qhead.toNat → readElem s.hd e 0 = readElem s.q e 0)
    ∧ (∀ e, e < 56 → s.qhead.toNat ≤ e → readElem s.hd e 0 = 0 ∧ readElem s.hs e zeroBlock = zeroBlock)
    ∧ (∀ e, e < 56 → e + 1 = s.qhead.toNat → readElem s.hs e zeroBlock = s.st)
    ∧ (∀ e, e < 55 → e + 1 < s.qhead.toNat →
        readElem s.hs (e + 1) zeroBlock
          = dataPathOfDesc (readElem s.q (e + 1) 0) s.ks (readElem s.hs e zeroBlock))

/-- R30: `ROUND` is the `ROUND` field of the last completed step, 0 before the first. -/
abbrev RoundInv (s : State) : Prop :=
  s.round = if s.qhead = 0 then 0 else roundOf (readElem s.q (s.qhead.toNat - 1) 0)

/-- R44 (i), R23, R279: in a DES session bytes 8 to 15 of `ST` and of every snapshot are zero. -/
abbrev DesBytesInv (s : State) : Prop :=
  s.sAlg = .des →
    (∀ n, n < 16 → 8 ≤ n → readElem s.st n 0 = 0)
      ∧ (∀ e, e < 56 → ∀ n, n < 16 → 8 ≤ n → readElem (readElem s.hs e zeroBlock) n 0 = 0)

/-- R24, R25: the bytes of `KS` past the session's round keys are zero. -/
abbrev KeyStoreInv (s : State) : Prop :=
  ∀ n, n < 240 → (match s.sAlg with | .aes => 16 * (sNr (sessionOf s) + 1) | .des => 96) ≤ n → readElem s.ks n 0 = 0

/-- R36: bits 7:6 of `CONFIG` are never set. -/
abbrev ConfigInv (s : State) : Prop := s.config &&& 0xC0 = 0

/-- The invariant of the machine: every fact above. -/
abbrev Inv (s : State) : Prop :=
  EmptyInv s ∧ QueueInv s ∧ SeqInv s ∧ NoFatalInv s ∧ HistoryInv s ∧ RoundInv s ∧ DesBytesInv s ∧ KeyStoreInv s
    ∧ ConfigInv s

/-- What no step descriptor and no error changes: everything but `ST`, the history, `ROUND`, `QHEAD`, `SEQ`, `FATAL`,
`ERR` and `EVT` (R46). -/
def SameElsewhere (s t : State) : Prop :=
  t.ks = s.ks ∧ t.q = s.q ∧ t.qlen = s.qlen ∧ t.sAlg = s.sAlg ∧ t.sKeysize = s.sKeysize ∧ t.sMode = s.sMode
    ∧ t.loaded = s.loaded ∧ t.config = s.config ∧ t.textBuf = s.textBuf ∧ t.textLen = s.textLen
    ∧ t.keyBuf = s.keyBuf ∧ t.keyLen = s.keyLen ∧ t.script = s.script ∧ t.seen = s.seen

/-- The host's own registers and the model's two fields are unchanged (R342's kept set, less `EVT`). -/
def SameHostSide (s t : State) : Prop :=
  t.config = s.config ∧ t.textBuf = s.textBuf ∧ t.textLen = s.textLen ∧ t.keyBuf = s.keyBuf ∧ t.keyLen = s.keyLen
    ∧ t.script = s.script ∧ t.seen = s.seen

/-- `S_BB` bytes of a block, as an event carries them (R116). -/
def eventBlock (a : Alg) (x : Block) : List Byte := x.toList.take (sBb a)

/-- Statements 3 to 9 of R240 for a step `d` that leaves `t.st`, with completion by R241: the history entry, `ROUND`,
`QHEAD`, the events in order (R254), and `SEQ`; `ERR`, `FATAL` and every register of `SameElsewhere` are unchanged. -/
def Committed (d : Desc) (s t : State) : Prop :=
  (∀ e, e < 56 → readElem t.hd e 0 = if e = s.qhead.toNat then d else readElem s.hd e 0)
    ∧ (∀ e, e < 56 → readElem t.hs e zeroBlock = if e = s.qhead.toNat then t.st else readElem s.hs e zeroBlock)
    ∧ t.round = d.setWidth 8
    ∧ t.qhead.toNat = s.qhead.toNat + 1
    ∧ (t.qhead ≠ s.qlen → t.seq = s.seq
        ∧ t.evt = s.evt ++ [.stepStart d, .stepComplete d (eventBlock s.sAlg t.st)])
    ∧ (t.qhead = s.qlen → t.seq = .complete
        ∧ t.evt = s.evt ++ [.stepStart d, .stepComplete d (eventBlock s.sAlg t.st),
            .runComplete (eventBlock s.sAlg t.st)])
    ∧ t.err = s.err ∧ t.fatal = s.fatal ∧ SameElsewhere s t

/-- A step `d` has a history entry to write, and if it drains the queue it is the session's terminal descriptor: the
conditions under which it completes with its own effect (R240, R241). -/
abbrev CanComplete (d : Desc) (s : State) : Prop :=
  s.qhead.toNat < 56 ∧ (s.qhead + 1 = s.qlen → d = terminalDesc (sessionOf s))

/-- A host turn that neither starts nor discards a session: any read, and any write but of `INIT` or `RESET` to `CMD`. -/
def keepsSession (t : Turn) : Bool :=
  match t with
  | .engine => true
  | .host (.read _ _ _) => true
  | .host (.write n _ _ value) =>
    !(n = 0x00 && (BitVec.ofNat 8 value = 0x01 || BitVec.ofNat 8 value = 0x06))

/-- The next transition neither starts nor discards a session; with no turn planned it is the engine's. -/
def nextKeepsSession (s : State) : Bool :=
  match s.script with
  | [] => true
  | t :: _ => keepsSession t

/-- `n` transitions, ending at the first that stops. -/
def runSteps : Nat → State → Answer
  | 0, s => .next s
  | n + 1, s =>
    match step s with
    | .next t => runSteps n t
    | .fault r => .fault r
    | .refused r => .refused r

/-- One of the 22 hexadecimal character codes (R110). -/
abbrev IsHex (c : Byte) : Prop :=
  (0x30 ≤ c.toNat ∧ c.toNat ≤ 0x39) ∨ (0x41 ≤ c.toNat ∧ c.toNat ≤ 0x46) ∨ (0x61 ≤ c.toNat ∧ c.toNat ≤ 0x66)

/-- `CONFIG[1:0]` as a number (R36). -/
abbrev cfgAlg (s : State) : Nat := s.config.toNat % 4

/-- `CONFIG[3:2]` as a number (R36). -/
abbrev cfgKeysize (s : State) : Nat := s.config.toNat / 4 % 4

/-- `CONFIG[5:4]` as a number (R36). -/
abbrev cfgMode (s : State) : Nat := s.config.toNat / 16 % 4

/-- The checks of R235 all pass. -/
abbrev ConfigOk (s : State) : Prop :=
  cfgAlg s < 2 ∧ (cfgAlg s = 0 → cfgKeysize s ≠ 3) ∧ cfgMode s < 2

/-- `tl` of R236. -/
abbrev requiredText (s : State) : Nat := if cfgAlg s = 0 then 32 else 16

/-- `kl` of R236. -/
abbrev requiredKey (s : State) : Nat := if cfgAlg s = 0 then 32 + 16 * cfgKeysize s else 16

/-- Every one of the first `n` characters of a buffer is hexadecimal (R236). -/
abbrev AllHex (buf : Vector Byte Config.bufcap) (n : Nat) : Prop := ∀ m, m < n → IsHex (readElem buf m 0)

/-- The checks of R235 and R236 all pass, so `INIT` is accepted. -/
abbrev InitOk (s : State) : Prop :=
  ConfigOk s ∧ s.textLen.toNat = requiredText s ∧ AllHex s.textBuf (requiredText s)
    ∧ s.keyLen.toNat = requiredKey s ∧ AllHex s.keyBuf (requiredKey s)

/-- The session that `CONFIG` asks for, its key size 128 for DES (R237 statement 10). -/
def configured (s : State) : Session where
  alg := if cfgAlg s = 0 then .aes else .des
  keySize := if cfgAlg s = 0 then (if cfgKeysize s = 0 then .k128 else if cfgKeysize s = 1 then .k192 else .k256) else .k128
  mode := if cfgMode s = 0 then .enc else .dec

/-- `INIT`, `RUN`, then as many engine transitions as the session has steps, with no other turn between. -/
def wholeRun (s : State) : Answer :=
  let n := (qlenOf (configured s)).toNat
  runSteps (n + 2) (setScript (cmd 0x01 :: cmd 0x02 :: engine n) s)

/-- The character codes of a text (R110). -/
def charCodes (text : String) : List Byte := text.toList.map fun c => BitVec.ofNat 8 c.toNat

/-- A buffer holds a text from its start. -/
abbrev Holds (buf : Vector Byte Config.bufcap) (text : List Byte) : Prop :=
  ∀ n, n < text.length → readElem buf n 0 = text.getD n 0

/-- The records of a run: every record but `Error` (R250). -/
def isRunEvent (e : Event) : Bool :=
  match e with
  | .stepStart _ => true
  | .stepComplete _ _ => true
  | .runComplete _ => true
  | .error _ => false

end Sys2Proof.Machine
end

