-- ==== Sys2Proof/Certificates/Slice0/Obligations.lean ====
section
/-! DEFINITION. The statements for the provers. Each docstring names the rules of spec/ a statement formalises. -/

open Sys2Proof Sys2Proof.Machine

/-! ## Encodings -/

/-- Formats D16 and C8 (R91, R92, R93, R100, R124): every instruction, with every value of its `ROUND` field, decodes
from its own word, and a word that decodes is the word of what it decodes to. -/
def Obligations.EncodeDecodeRoundTrip : Prop :=
  (∀ i : Instr, decode (encode i) = .ok i) ∧ ∀ (w : Encoded) (i : Instr), decode w = .ok i → encode i = w

/-- Words written out from the tables of R93 and R100, and from the examples of R120 and R232, decode to the
instructions they stand for; reserved ones do not (R95, R101). -/
def Obligations.SpecWordsDecode : Prop :=
  decodeD16 0x0100 = .ok (.ark 0) ∧ decodeD16 0x0203 = .ok (.sb 3) ∧ decodeD16 0x030A = .ok (.sr 10)
    ∧ decodeD16 0x0409 = .ok (.mc 9) ∧ decodeD16 0x0509 = .ok (.isb 9) ∧ decodeD16 0x0608 = .ok (.isr 8)
    ∧ decodeD16 0x0701 = .ok (.imc 1) ∧ decodeD16 0x0800 = .ok (.desIp 0) ∧ decodeD16 0x090F = .ok (.desRnd 15)
    ∧ decodeD16 0x0A00 = .ok (.desFp 0) ∧ decodeC8 0x01 = .ok .init ∧ decodeC8 0x02 = .ok .run
    ∧ decodeC8 0x03 = .ok .pause ∧ decodeC8 0x04 = .ok .resume ∧ decodeC8 0x05 = .ok .step
    ∧ decodeC8 0x06 = .ok .reset ∧ decodeD16 0x0000 = .error (.reservedKind 0x00)
    ∧ decodeD16 0x0B00 = .error (.reservedKind 0x0B) ∧ decodeC8 0x00 = .error (.reservedCommand 0x00)
    ∧ decodeC8 0x07 = .error (.reservedCommand 0x07)

/-- R94, with the table of R93: a word is the descriptor of a legal step exactly when its `KIND` is one of the ten, the
session's algorithm is the kind's, and its `ROUND` lies in the range given for the session's number of rounds. -/
def Obligations.LegalWords : Prop :=
  ∀ (ses : Session) (d : Desc),
    let kind := (kindOf d).toNat
    let r := (roundOf d).toNat
    let nr := match ses.keySize with
      | .k128 => 10
      | .k192 => 12
      | .k256 => 14
    (∃ i, decodeD16 d = .ok i ∧ legal ses i = true) ↔
      (ses.alg = .aes ∧
        ((kind = 1 ∧ r ≤ nr) ∨ ((kind = 2 ∨ kind = 3) ∧ 1 ≤ r ∧ r ≤ nr)
          ∨ ((kind = 4 ∨ kind = 7) ∧ 1 ≤ r ∧ r ≤ nr - 1) ∨ ((kind = 5 ∨ kind = 6) ∧ r ≤ nr - 1)))
      ∨ (ses.alg = .des ∧ (((kind = 8 ∨ kind = 10) ∧ r = 0) ∨ (kind = 9 ∧ r ≤ 15)))

/-- R95: a reserved `KIND` (0x00, 0x0B to 0xFF) is no step, and the fetch of a word that is not legal, by the engine or
by `STEP`, raises `InternalInvariantError` code 1: only `ERR`, `EVT` and `FATAL` change. -/
def Obligations.IllegalFetchRaises : Prop :=
  (∀ d : Desc, (kindOf d).toNat = 0 ∨ 0x0B ≤ (kindOf d).toNat → decodeD16 d = .error (.reservedKind (kindOf d)))
    ∧ ∀ s : State, s.qhead.toNat < 56 →
      (∀ i, decodeD16 (readElem s.q s.qhead.toNat 0) = .ok i → legal (sessionOf s) i = false) →
      let t := { s with err := 0x31, evt := s.evt ++ [.error .badDescriptor], fatal := true }
      (s.seq = .running → s.fatal = false → engineTurn s = .next t)
        ∧ (s.loaded = true → s.fatal = false → s.qhead < s.qlen → exec .step s = .next t)

/-- R101: a write to `CMD` whose low 8 bits are 0x00 or 0x07 to 0xFF changes no state and emits no event; a read of
register 0x00 returns 0. -/
def Obligations.ReservedCommandsDoNothing : Prop :=
  ∀ (s : State) (i j v : Nat),
    (v % 256 = 0 ∨ 7 ≤ v % 256 → hostTurn (.write 0x00 i j v) s = .next s) ∧ hostRead 0x00 i j s = 0

/-! ## One transition -/

/-- A step runs the instruction that is fetched or commanded: on an enabled engine turn the descriptor at `Q[QHEAD]`
(R238, R239), on a write of `CMD` the command (R271); every other host turn is its register write or read (R270, R275).
Two things here are the model's choice and no rule of the spec: the turns stand in `script`, which the turn taken leaves
(log entry 1), and a read appends the element it returns to `seen`, where R275 gives a read no side effect (log entry
2). -/
def Obligations.StepRunsDecodedInstruction : Prop :=
  ∀ s : State,
    let u := setScript s.script.tail s
    (∀ i, (s.script = [] ∨ ∃ ts, s.script = .engine :: ts) → s.seq = .running → s.fatal = false →
        s.qhead.toNat < 56 → decodeD16 (readElem s.q s.qhead.toNat 0) = .ok i → step s = exec i u)
      ∧ (∀ i a b v ts, s.script = .host (.write 0x00 a b v) :: ts → decodeC8 (BitVec.ofNat 8 v) = .ok i →
          step s = exec i u)
      ∧ (∀ n a b v ts, s.script = .host (.write n a b v) :: ts → n ≠ 0x00 → step s = .next (hostWrite n a v u))
      ∧ ∀ n a b ts, s.script = .host (.read n a b) :: ts →
          step s = .next { u with seen := s.seen ++ [hostRead n a b u] }

/-- R238 with R239, R240: an engine turn with `SEQ = RUNNING` and `FATAL = 0` executes exactly one atomic step, the
legality check and the commit with the data path of the descriptor; in a state of the invariant `RUNNING` implies a
pending step (R44). In every other state the spec's engine makes no transition of its own; that an engine turn there
answers the state unchanged is the model's choice (log entry 4). -/
def Obligations.EngineTransition : Prop :=
  ∀ s : State,
    (¬(s.seq = .running ∧ s.fatal = false) → engineTurn s = .next s)
      ∧ (∀ i, s.seq = .running → s.fatal = false → s.qhead.toNat < 56 →
          decodeD16 (readElem s.q s.qhead.toNat 0) = .ok i →
          engineTurn s =
            if legal (sessionOf s) i then .next (finishStep (readElem s.q s.qhead.toNat 0) (dataPath i s.ks s.st) s)
            else .next (raise .badDescriptor s))
      ∧ (Inv s → s.seq = .running → s.loaded = true ∧ s.qhead < s.qlen)

/-! ## The ten steps: result, completion and trap -/

/-- R192, `ARK r`, committed as R240 says; a descriptor that is not legal raises (R95). -/
def Obligations.AddRoundKeyStep : Prop :=
  ∀ (r : Byte) (s : State),
    let d : Desc := 0x0100 + r.setWidth 16
    let legalHere := s.sAlg = .aes ∧ r.toNat ≤ sNr (sessionOf s)
    (legalHere → CanComplete d s →
        ∃ t, exec (.ark r) s = .next t ∧ Committed d s t
          ∧ ∀ n, n < 16 → readElem t.st n 0 = readElem s.st n 0 ^^^ readElem s.ks (16 * r.toNat + n) 0)
      ∧ (¬legalHere → exec (.ark r) s = .next (raise .badDescriptor s))

/-- R193, `SB r`, committed as R240 says; a descriptor that is not legal raises (R95). -/
def Obligations.SubBytesStep : Prop :=
  ∀ (r : Byte) (s : State),
    let d : Desc := 0x0200 + r.setWidth 16
    let legalHere := s.sAlg = .aes ∧ 1 ≤ r.toNat ∧ r.toNat ≤ sNr (sessionOf s)
    (legalHere → CanComplete d s →
        ∃ t, exec (.sb r) s = .next t ∧ Committed d s t
          ∧ ∀ n, n < 16 → readElem t.st n 0 = sbox (readElem s.st n 0))
      ∧ (¬legalHere → exec (.sb r) s = .next (raise .badDescriptor s))

/-- R194, `SR r`, by its flat form `ST'[4*c + i] <- ST[4*((c + i) mod 4) + i]`, committed as R240 says; a descriptor
that is not legal raises (R95). -/
def Obligations.ShiftRowsStep : Prop :=
  ∀ (r : Byte) (s : State),
    let d : Desc := 0x0300 + r.setWidth 16
    let legalHere := s.sAlg = .aes ∧ 1 ≤ r.toNat ∧ r.toNat ≤ sNr (sessionOf s)
    (legalHere → CanComplete d s →
        ∃ t, exec (.sr r) s = .next t ∧ Committed d s t
          ∧ ∀ i c, i < 4 → c < 4 → readElem t.st (4 * c + i) 0 = readElem s.st (4 * ((c + i) % 4) + i) 0)
      ∧ (¬legalHere → exec (.sr r) s = .next (raise .badDescriptor s))

/-- R195, `MC r`, by the four sums of its pseudocode, committed as R240 says; a descriptor that is not legal raises
(R95). -/
def Obligations.MixColumnsStep : Prop :=
  ∀ (r : Byte) (s : State),
    let d : Desc := 0x0400 + r.setWidth 16
    let legalHere := s.sAlg = .aes ∧ 1 ≤ r.toNat ∧ r.toNat ≤ sNr (sessionOf s) - 1
    (legalHere → CanComplete d s →
        ∃ t, exec (.mc r) s = .next t ∧ Committed d s t
          ∧ ∀ c, c < 4 →
            let a := fun k => readElem s.st (4 * c + k) 0
            readElem t.st (4 * c) 0 = gfMultiply (a 0) 0x02 ^^^ gfMultiply (a 1) 0x03 ^^^ a 2 ^^^ a 3
              ∧ readElem t.st (4 * c + 1) 0 = a 0 ^^^ gfMultiply (a 1) 0x02 ^^^ gfMultiply (a 2) 0x03 ^^^ a 3
              ∧ readElem t.st (4 * c + 2) 0 = a 0 ^^^ a 1 ^^^ gfMultiply (a 2) 0x02 ^^^ gfMultiply (a 3) 0x03
              ∧ readElem t.st (4 * c + 3) 0 = gfMultiply (a 0) 0x03 ^^^ a 1 ^^^ a 2 ^^^ gfMultiply (a 3) 0x02)
      ∧ (¬legalHere → exec (.mc r) s = .next (raise .badDescriptor s))

/-- R196, `ISB r`, committed as R240 says; a descriptor that is not legal raises (R95). -/
def Obligations.InvSubBytesStep : Prop :=
  ∀ (r : Byte) (s : State),
    let d : Desc := 0x0500 + r.setWidth 16
    let legalHere := s.sAlg = .aes ∧ r.toNat ≤ sNr (sessionOf s) - 1
    (legalHere → CanComplete d s →
        ∃ t, exec (.isb r) s = .next t ∧ Committed d s t
          ∧ ∀ n, n < 16 → readElem t.st n 0 = invSbox (readElem s.st n 0))
      ∧ (¬legalHere → exec (.isb r) s = .next (raise .badDescriptor s))

/-- R197, `ISR r`, by its flat form `ST'[4*((c + i) mod 4) + i] <- ST[4*c + i]`, committed as R240 says; a descriptor
that is not legal raises (R95). -/
def Obligations.InvShiftRowsStep : Prop :=
  ∀ (r : Byte) (s : State),
    let d : Desc := 0x0600 + r.setWidth 16
    let legalHere := s.sAlg = .aes ∧ r.toNat ≤ sNr (sessionOf s) - 1
    (legalHere → CanComplete d s →
        ∃ t, exec (.isr r) s = .next t ∧ Committed d s t
          ∧ ∀ i c, i < 4 → c < 4 → readElem t.st (4 * ((c + i) % 4) + i) 0 = readElem s.st (4 * c + i) 0)
      ∧ (¬legalHere → exec (.isr r) s = .next (raise .badDescriptor s))

/-- R198, `IMC r`, by the four sums of its pseudocode, committed as R240 says; a descriptor that is not legal raises
(R95). -/
def Obligations.InvMixColumnsStep : Prop :=
  ∀ (r : Byte) (s : State),
    let d : Desc := 0x0700 + r.setWidth 16
    let legalHere := s.sAlg = .aes ∧ 1 ≤ r.toNat ∧ r.toNat ≤ sNr (sessionOf s) - 1
    (legalHere → CanComplete d s →
        ∃ t, exec (.imc r) s = .next t ∧ Committed d s t
          ∧ ∀ c, c < 4 →
            let a := fun k => readElem s.st (4 * c + k) 0
            let m := fun p q u v => gfMultiply (a 0) p ^^^ gfMultiply (a 1) q ^^^ gfMultiply (a 2) u ^^^ gfMultiply (a 3) v
            readElem t.st (4 * c) 0 = m 0x0E 0x0B 0x0D 0x09 ∧ readElem t.st (4 * c + 1) 0 = m 0x09 0x0E 0x0B 0x0D
              ∧ readElem t.st (4 * c + 2) 0 = m 0x0D 0x09 0x0E 0x0B
              ∧ readElem t.st (4 * c + 3) 0 = m 0x0B 0x0D 0x09 0x0E)
      ∧ (¬legalHere → exec (.imc r) s = .next (raise .badDescriptor s))

/-- R212, `DES_IP`: bit `j` of the new block is bit `IP[j]` of the old, and bytes of `ST[8..15]` that are 0 stay 0,
committed as R240 says; a descriptor that is not legal raises (R95). -/
def Obligations.DesInitialStep : Prop :=
  ∀ (r : Byte) (s : State),
    let legalHere := s.sAlg = .des ∧ r.toNat = 0
    (legalHere → CanComplete 0x0800 s →
        ∃ t, exec (.desIp r) s = .next t ∧ Committed 0x0800 s t
          ∧ (∀ j, 1 ≤ j → j ≤ 64 → bitAt (desBits t.st) j = bitAt (desBits s.st) (ipTable.getD (j - 1) 0))
          ∧ ∀ n, 8 ≤ n → n < 16 → readElem s.st n 0 = 0 → readElem t.st n 0 = 0)
      ∧ (¬legalHere → exec (.desIp r) s = .next (raise .badDescriptor s))

/-- R214, `DES_RND k`: the new halves from the old halves and `K[k]`, bytes of `ST[8..15]` that are 0 staying 0,
committed as R240 says; a descriptor that is not legal raises (R95). -/
def Obligations.DesRoundStep : Prop :=
  ∀ (k : Byte) (s : State),
    let d : Desc := 0x0900 + k.setWidth 16
    let legalHere := s.sAlg = .des ∧ k.toNat ≤ 15
    (legalHere → CanComplete d s →
        ∃ t, exec (.desRnd k) s = .next t ∧ Committed d s t
          ∧ leftHalf (desBits t.st) = rightHalf (desBits s.st)
          ∧ rightHalf (desBits t.st)
              = leftHalf (desBits s.st) ^^^ feistelF (rightHalf (desBits s.st)) (desRoundKey s.ks k.toNat)
          ∧ ∀ n, 8 ≤ n → n < 16 → readElem s.st n 0 = 0 → readElem t.st n 0 = 0)
      ∧ (¬legalHere → exec (.desRnd k) s = .next (raise .badDescriptor s))

/-- R216, `DES_FP`: bit `j` of the new block is bit `FP[j]` of the halves swapped, bytes of `ST[8..15]` that are 0
staying 0, committed as R240 says; a descriptor that is not legal raises (R95). -/
def Obligations.DesFinalStep : Prop :=
  ∀ (r : Byte) (s : State),
    let legalHere := s.sAlg = .des ∧ r.toNat = 0
    (legalHere → CanComplete 0x0A00 s →
        ∃ t, exec (.desFp r) s = .next t ∧ Committed 0x0A00 s t
          ∧ (∀ j, 1 ≤ j → j ≤ 64 →
              bitAt (desBits t.st) j
                = bitAt (rightHalf (desBits s.st) ++ leftHalf (desBits s.st)) (fpTable.getD (j - 1) 0))
          ∧ ∀ n, 8 ≤ n → n < 16 → readElem s.st n 0 = 0 → readElem t.st n 0 = 0)
      ∧ (¬legalHere → exec (.desFp r) s = .next (raise .badDescriptor s))

/-- The frame of the ten step descriptors (R46, R240, R241, R310), whichever way they end: key schedule, queue, latched
configuration, input registers and the model's own fields are unchanged; no history entry but `QHEAD` changes; `QHEAD`
stays or advances by one; `SEQ` stays or becomes `COMPLETE`; `ERR` and `FATAL` change only by one of the two internal
errors; `EVT` only grows; and a DES step leaves `ST[8..15]` (log entry 11). -/
def Obligations.DescriptorFrame : Prop :=
  ∀ (i : Instr) (s t : State), isStepInstr i = true → exec i s = .next t →
    SameElsewhere s t
      ∧ (∀ e, e < 56 → e ≠ s.qhead.toNat →
          readElem t.hd e 0 = readElem s.hd e 0 ∧ readElem t.hs e zeroBlock = readElem s.hs e zeroBlock)
      ∧ (t.qhead = s.qhead ∨ t.qhead = s.qhead + 1)
      ∧ (t.seq = s.seq ∨ t.seq = .complete)
      ∧ ((t.err = s.err ∧ t.fatal = s.fatal) ∨ ((t.err = 0x31 ∨ t.err = 0x32) ∧ t.fatal = true))
      ∧ (∃ es, t.evt = s.evt ++ es)
      ∧ ∀ k : Byte, i = .desIp k ∨ i = .desRnd k ∨ i = .desFp k →
          ∀ n, 8 ≤ n → n < 16 → readElem t.st n 0 = readElem s.st n 0

/-- R92: a descriptor's effect on `ST` depends only on the descriptor, `ST` and `KS`, never on `S_MODE`, its position
in the queue or anything else. -/
def Obligations.DescriptorSelfContained : Prop :=
  ∀ (i : Instr) (s u : State), s.st = u.st → s.ks = u.ks →
    legal (sessionOf s) i = true → legal (sessionOf u) i = true → s.qhead.toNat < 56 → u.qhead.toNat < 56 →
    ∃ s' u', exec i s = .next s' ∧ exec i u = .next u' ∧ s'.st = u'.st

/-- R241: the step that makes `QHEAD = QLEN` completes the run when its descriptor is the terminal one, and raises
`DRAIN_MISMATCH` otherwise, with the step committed and `SEQ` kept (R310). -/
def Obligations.Completion : Prop :=
  ∀ (i : Instr) (s : State),
    legal (sessionOf s) i = true → s.qhead.toNat < 56 → s.qhead + 1 = s.qlen →
    let terminal : Desc :=
      if s.sAlg = .aes then (if s.sMode = .enc then 0x0100 + BitVec.ofNat 16 (sNr (sessionOf s)) else 0x0100) else 0x0A00
    let x := dataPath i s.ks s.st
    let records := s.evt ++ [.stepStart (descOf i), .stepComplete (descOf i) (eventBlock s.sAlg x)]
    ∃ t, exec i s = .next t ∧ t.st = x ∧ t.qhead = s.qlen
      ∧ readElem t.hd s.qhead.toNat 0 = descOf i ∧ readElem t.hs s.qhead.toNat zeroBlock = x
      ∧ (descOf i = terminal →
          t.seq = .complete ∧ t.evt = records ++ [.runComplete (eventBlock s.sAlg x)] ∧ t.err = s.err ∧ t.fatal = s.fatal)
      ∧ (descOf i ≠ terminal →
          t.seq = s.seq ∧ t.evt = records ++ [.error .drainMismatch] ∧ t.err = 0x32 ∧ t.fatal = true)

/-! ## The six commands -/

/-- R242, R243, R244: `RUN`, `PAUSE` and `RESUME`, each with its code; each writes `SEQ` under its condition and has no
effect otherwise. -/
def Obligations.RunPauseResume : Prop :=
  decodeC8 0x02 = .ok .run ∧ decodeC8 0x03 = .ok .pause ∧ decodeC8 0x04 = .ok .resume
    ∧ ∀ s : State,
      (s.seq = .ready ∧ s.loaded = true ∧ s.fatal = false → exec .run s = .next { s with seq := .running })
        ∧ (¬(s.seq = .ready ∧ s.loaded = true ∧ s.fatal = false) → exec .run s = .next s)
        ∧ (s.seq = .running ∧ s.fatal = false → exec .pause s = .next { s with seq := .paused })
        ∧ (¬(s.seq = .running ∧ s.fatal = false) → exec .pause s = .next s)
        ∧ (s.seq = .paused ∧ s.fatal = false → exec .resume s = .next { s with seq := .running })
        ∧ (¬(s.seq = .paused ∧ s.fatal = false) → exec .resume s = .next s)

/-- R245, `STEP`: one queued step inside the command's own transition, after which loaded `READY` is `PAUSED`; nothing
when no step is queued; the errors of the step, which leave `SEQ`. -/
def Obligations.StepCommand : Prop :=
  ∀ s : State,
    (¬(s.loaded = true ∧ s.fatal = false ∧ s.qhead < s.qlen) → exec .step s = .next s)
      ∧ ∀ i, s.loaded = true → s.fatal = false → s.qhead < s.qlen → s.qhead.toNat < 56 →
          decodeD16 (readElem s.q s.qhead.toNat 0) = .ok i →
          let d := readElem s.q s.qhead.toNat 0
          let stays := if s.seq = .ready then Seq.paused else s.seq
          (legal (sessionOf s) i = true → CanComplete d s →
              ∃ t, exec .step s = .next t ∧ t.st = dataPath i s.ks s.st
                ∧ t.seq = (if t.qhead = s.qlen then .complete else stays)
                ∧ Committed d s { t with seq := if t.qhead = s.qlen then .complete else s.seq })
            ∧ (legal (sessionOf s) i = true → ¬CanComplete d s →
                ∃ t, exec .step s = .next t ∧ t.err = 0x32 ∧ t.fatal = true ∧ t.seq = s.seq
                  ∧ t.st = dataPath i s.ks s.st)
            ∧ (legal (sessionOf s) i = false → exec .step s = .next (raise .badDescriptor s))

/-- R246, R342, `RESET`: effective in every state, clearing session storage and sequencer control, keeping `CONFIG`, the
input registers and `EVT`; again it changes nothing, and after it no engine transition is enabled (R346). Two clauses are
the model's choice: `ERR` is 0 after `RESET` in an empty `READY` whose `ERR` was not 0, where R342 and a sentence of R346
disagree (log entry 18), and an engine turn after `RESET` answers the state unchanged, where the spec's engine makes no
transition (R238, log entry 4). -/
def Obligations.ResetCommand : Prop :=
  ∀ s : State, ∃ t, exec .reset s = .next t
    ∧ t.st = zeroBlock ∧ (∀ n, n < 240 → readElem t.ks n 0 = 0)
    ∧ (∀ n, n < 56 → readElem t.q n 0 = 0 ∧ readElem t.hd n 0 = 0 ∧ readElem t.hs n zeroBlock = zeroBlock)
    ∧ t.qlen = 0 ∧ t.qhead = 0 ∧ t.round = 0 ∧ t.sAlg = .aes ∧ t.sKeysize = .k128 ∧ t.sMode = .enc
    ∧ t.seq = .ready ∧ t.loaded = false ∧ t.fatal = false ∧ t.err = 0
    ∧ SameHostSide s t ∧ t.evt = s.evt
    ∧ exec .reset t = .next t ∧ engineTurn t = .next t

/-- R237, `INIT` accepted: when the checks of R235 and R236 pass, the session of `CONFIG` is built from the inputs, its
history is empty, no event is emitted, and `CONFIG` and the inputs are kept. -/
def Obligations.InitAccepted : Prop :=
  ∀ s : State, InitOk s →
    let ses := configured s
    let nibble := fun (buf : Vector Byte Config.bufcap) n => ((hexval (readElem buf n 0)).getD 0).toNat
    ∃ t, exec .init s = .next t
      ∧ sessionOf t = ses
      ∧ (∀ n, n < 16 → (readElem t.st n 0).toNat
          = if n < requiredText s / 2 then 16 * nibble s.textBuf (2 * n) + nibble s.textBuf (2 * n + 1) else 0)
      ∧ (∃ key : List Byte, key.length = requiredKey s / 2 ∧ t.ks = keySchedule ses key
          ∧ ∀ n, n < requiredKey s / 2 →
              (key.getD n 0).toNat = 16 * nibble s.keyBuf (2 * n) + nibble s.keyBuf (2 * n + 1))
      ∧ t.q = queueOf ses ∧ t.qlen = qlenOf ses ∧ t.qhead = 0 ∧ t.round = 0
      ∧ (∀ n, n < 56 → readElem t.hd n 0 = 0 ∧ readElem t.hs n zeroBlock = zeroBlock)
      ∧ t.seq = .ready ∧ t.loaded = true ∧ t.fatal = false ∧ t.err = 0
      ∧ SameHostSide s t ∧ t.evt = s.evt

/-- R235, R236, R256, `INIT` rejected: the first failing check, in the order given, is reported, and nothing but `ERR`
and `EVT` changes, whatever session exists. -/
def Obligations.InitRejected : Prop :=
  ∀ s : State,
    let rejects := fun (n : BitVec 8) (e : ErrorCode) =>
      exec .init s = .next { s with err := n, evt := s.evt ++ [.error e] }
    (2 ≤ cfgAlg s → rejects 0x21 .badAlg)
      ∧ (cfgAlg s = 0 → cfgKeysize s = 3 → rejects 0x22 .badKeysize)
      ∧ (cfgAlg s < 2 → (cfgAlg s = 0 → cfgKeysize s ≠ 3) → 2 ≤ cfgMode s → rejects 0x23 .badMode)
      ∧ (ConfigOk s →
          (s.textLen.toNat ≠ requiredText s → rejects 0x11 .textLength)
            ∧ (s.textLen.toNat = requiredText s →
                (¬AllHex s.textBuf (requiredText s) → rejects 0x12 .textNonhex)
                  ∧ (AllHex s.textBuf (requiredText s) →
                      (s.keyLen.toNat ≠ requiredKey s → rejects 0x13 .keyLength)
                        ∧ (s.keyLen.toNat = requiredKey s → ¬AllHex s.keyBuf (requiredKey s) →
                            rejects 0x14 .keyNonhex))))

/-- R343: an accepted `INIT` has the same result as `RESET` followed by the same `INIT`. -/
def Obligations.InitEqualsResetThenInit : Prop :=
  ∀ s : State, InitOk s → ∃ t u, exec .init s = .next t ∧ exec .reset s = .next u ∧ exec .init u = .next t

/-- R247, with R34 and R306: the table of commands against sequencer states, for every state of the machine's invariant;
and, for every state with `FATAL = 1`, that no step executes and only `RESET` and `INIT` have an effect. R34 and R238 say
that the engine makes no transition there; that an engine turn then answers the state unchanged is the model's choice
(log entry 4). -/
def Obligations.CommandTable : Prop :=
  (∀ s : State, Inv s →
    let noEffect := fun (i : Instr) => exec i s = .next s
    let oneStep := fun (after : Seq) => ∃ t, exec .step s = .next t ∧ t.qhead = s.qhead + 1
      ∧ t.seq = if t.qhead = t.qlen then .complete else after
    (s.seq = .ready → s.loaded = false → noEffect .run ∧ noEffect .pause ∧ noEffect .resume ∧ noEffect .step)
      ∧ (s.seq = .ready → s.loaded = true →
          exec .run s = .next { s with seq := .running } ∧ noEffect .pause ∧ noEffect .resume ∧ oneStep .paused
            ∧ s.qhead + 1 ≠ s.qlen)
      ∧ (s.seq = .running →
          noEffect .run ∧ exec .pause s = .next { s with seq := .paused } ∧ noEffect .resume ∧ oneStep .running)
      ∧ (s.seq = .paused →
          noEffect .run ∧ noEffect .pause ∧ exec .resume s = .next { s with seq := .running } ∧ oneStep .paused)
      ∧ (s.seq = .complete → noEffect .run ∧ noEffect .pause ∧ noEffect .resume ∧ noEffect .step))
    ∧ ∀ s : State,
      (s.fatal = true →
          engineTurn s = .next s ∧ exec .run s = .next s ∧ exec .pause s = .next s ∧ exec .resume s = .next s
            ∧ exec .step s = .next s)
        ∧ (∃ t, exec .reset s = .next t ∧ t.seq = .ready ∧ t.loaded = false ∧ t.fatal = false)
        ∧ (InitOk s → ∃ t, exec .init s = .next t ∧ t.seq = .ready ∧ t.loaded = true ∧ t.fatal = false)
        ∧ (¬InitOk s → ∃ e, exec .init s = .next { s with err := errorByte e, evt := s.evt ++ [.error e] })
        ∧ ∀ code : Nat, code % 256 = 0 ∨ 7 ≤ code % 256 → commandWrite code s = .next s

/-! ## Errors and events -/

/-- The table of R302 and the error entry of R310: what `raise` leaves, and that nothing else changes. -/
def Obligations.ErrorEntry : Prop :=
  errorByte .textLength = 0x11 ∧ errorByte .textNonhex = 0x12 ∧ errorByte .keyLength = 0x13 ∧ errorByte .keyNonhex = 0x14
    ∧ errorByte .badAlg = 0x21 ∧ errorByte .badKeysize = 0x22 ∧ errorByte .badMode = 0x23
    ∧ errorByte .badDescriptor = 0x31 ∧ errorByte .drainMismatch = 0x32
    ∧ ∀ (e : ErrorCode) (s : State),
      raise e s = { s with
        err := errorByte e
        evt := s.evt ++ [.error e]
        fatal := s.fatal || (e = .badDescriptor || e = .drainMismatch) }

/-- R41, R254, R286: every transition only appends to `EVT`, and what it appends is nothing, one `Error`, or the records
of one step in order, with `RunComplete` of the same block or a `DRAIN_MISMATCH` after them. -/
def Obligations.EventsOfATransition : Prop :=
  ∀ s t : State, step s = .next t →
    t.evt = s.evt ∨ (∃ e, t.evt = s.evt ++ [.error e])
      ∨ ∃ d, let x := eventBlock t.sAlg t.st
        t.evt = s.evt ++ [.stepStart d, .stepComplete d x]
          ∨ t.evt = s.evt ++ [.stepStart d, .stepComplete d x, .runComplete x]
          ∨ t.evt = s.evt ++ [.stepStart d, .stepComplete d x, .error .drainMismatch]

/-! ## Primitives and tables -/

/-- R131, R132: `gfMultiply` is the sum of the doublings of `a` at the set bits of `b`; it has identity 1, is
commutative, associative, distributes over XOR, and every non-zero byte has exactly one inverse. -/
def Obligations.GfMultiplyLaws : Prop :=
  let double := fun a : Byte => if a.getLsbD 7 then (a <<< 1) ^^^ 0x1B else a <<< 1
  (∀ a b, gfMultiply a b
      = ((List.range 8).map fun n => if b.getLsbD n then double^[n] a else 0).foldl (fun x y => x ^^^ y) 0)
    ∧ (∀ a, gfMultiply a 1 = a ∧ gfMultiply a 0 = 0)
    ∧ (∀ a b, gfMultiply a b = gfMultiply b a)
    ∧ (∀ a b c, gfMultiply a (b ^^^ c) = gfMultiply a b ^^^ gfMultiply a c)
    ∧ (∀ a b c, gfMultiply (gfMultiply a b) c = gfMultiply a (gfMultiply b c))
    ∧ (∀ a, a ≠ 0 → ∃ x, gfMultiply a x = 1 ∧ ∀ y, gfMultiply a y = 1 → y = x)
    ∧ gfMultiply 0x53 0xCA = 0x01

/-- R133, R134, R135: `permute`, `xorBits` and `leftRotate` bit by bit, positions counted from 1 at the left. -/
def Obligations.BitPrimitives : Prop :=
  (∀ (n m : Nat) (x : BitVec n) (table : List Nat), table.length = m → (∀ p ∈ table, 1 ≤ p ∧ p ≤ n) →
      ∀ j, 1 ≤ j → j ≤ m → bitAt (permute m x table) j = bitAt x (table.getD (j - 1) 0))
    ∧ (∀ (n : Nat) (a b : BitVec n) (j : Nat), 1 ≤ j → j ≤ n → bitAt (xorBits a b) j = (bitAt a j ^^ bitAt b j))
    ∧ ∀ (m n : Nat) (x : BitVec m) (j : Nat), 1 ≤ j → j ≤ m →
        bitAt (leftRotate x n) j = bitAt x ((j - 1 + n) % m + 1)

/-- R66: position `p` of a bit-string held in bytes is bit `7 - ((p-1) mod 8)` of byte `(p-1) div 8`, for the block and
for a round key. -/
def Obligations.BitStringsInBytes : Prop :=
  (∀ (b : Block) (p : Nat), 1 ≤ p → p ≤ 64 →
      bitAt (desBits b) p = (readElem b ((p - 1) / 8) 0).getLsbD (7 - (p - 1) % 8))
    ∧ ∀ (ks : KeyStore) (k p : Nat), k ≤ 15 → 1 ≤ p → p ≤ 48 →
        bitAt (desRoundKey ks k) p = (readElem ks (6 * k + (p - 1) / 8) 0).getLsbD (7 - (p - 1) % 8)

/-- R140, R141, R142: `INV_SBOX` inverts `SBOX` both ways, the check values, and `SBOX` regenerated from the field
inverse. -/
def Obligations.SboxInverse : Prop :=
  (∀ x, invSbox (sbox x) = x) ∧ (∀ x, sbox (invSbox x) = x)
    ∧ sbox 0x00 = 0x63 ∧ sbox 0x53 = 0xED ∧ sbox 0xFF = 0x16
    ∧ invSbox 0x63 = 0x00 ∧ invSbox 0x00 = 0x52 ∧ invSbox 0xED = 0x53
    ∧ ∀ x, ∃ y, (x = 0 ∧ y = 0 ∨ gfMultiply x y = 1)
        ∧ sbox x = y ^^^ y.rotateLeft 1 ^^^ y.rotateLeft 2 ^^^ y.rotateLeft 3 ^^^ y.rotateLeft 4 ^^^ 0x63

/-- The shapes of the tables as R143 and R150 to R157 describe them. -/
def Obligations.TableShapes : Prop :=
  (rcon 0 = 0x01 ∧ ∀ j, j < 9 → rcon (j + 1) = gfMultiply (rcon j) 0x02)
    ∧ (ipTable.length = 64 ∧ ∀ p, p < 64 → p + 1 ∈ ipTable)
    ∧ (pTable.length = 32 ∧ ∀ p, p < 32 → p + 1 ∈ pTable)
    ∧ (eTable.length = 48 ∧ ∀ n, n < 8 → ∀ m, m < 6 → eTable.getD (6 * n + m) 0 = (4 * n + m + 31) % 32 + 1)
    ∧ (pc1Table.length = 56 ∧ ∀ p, p < 64 → (p + 1 ∈ pc1Table ↔ (p + 1) % 8 ≠ 0))
    ∧ (pc2Table.length = 48 ∧ ∀ p, p < 56 → (p + 1 ∈ pc2Table ↔ p + 1 ∉ [9, 18, 22, 25, 35, 38, 43, 54]))
    ∧ (shiftsTable.length = 16 ∧ shiftsTable.sum = 28
        ∧ ∀ n, n < 16 → shiftsTable.getD n 0 = if n + 1 ∈ [1, 2, 9, 16] then 1 else 2)
    ∧ ∀ n, n < 8 → ∀ row, row < 4 → ∀ v : BitVec 4, ∃ col : BitVec 4, sdes (n + 1) row col.toNat = v

/-- R151: `FP` is the inverse of `IP`, and R214: one Feistel round is undone from its own result, whatever the key. -/
def Obligations.DesStepsInvert : Prop :=
  (∀ x : BitVec 64, permute 64 (permute 64 x ipTable) fpTable = x ∧ permute 64 (permute 64 x fpTable) ipTable = x)
    ∧ ∀ (k : BitVec 48) (b : BitVec 64),
        let c := feistelRound k b
        rightHalf b = leftHalf c ∧ leftHalf b = xorBits (rightHalf c) (feistelF (leftHalf c) k)

/-- R211: the Feistel function by its pseudocode, bit by bit, and the rule's example. -/
def Obligations.FeistelFunction : Prop :=
  (∀ (r : BitVec 32) (k : BitVec 48), ∃ y : BitVec 32, feistelF r k = permute 32 y pTable
      ∧ ∀ n, 1 ≤ n → n ≤ 8 →
        let b := fun m => (bitAt (xorBits (permute 48 r eTable) k) (6 * n - 6 + m)).toNat
        let v := sdes n (2 * b 1 + b 6) (8 * b 2 + 4 * b 3 + 2 * b 4 + b 5)
        ∀ m, 1 ≤ m → m ≤ 4 → bitAt y (4 * n - 4 + m) = v.getLsbD (4 - m))
    ∧ feistelF 0xF0AAF0AA 0x1B02EFFC7072 = 0x234AA9BB

/-- R202: the inverse pairs of the AES steps and the two commutations, on every block. -/
def Obligations.InversePairs : Prop :=
  ∀ x : Block,
    invSubBytes (subBytes x) = x ∧ subBytes (invSubBytes x) = x ∧ invShiftRows (shiftRows x) = x
      ∧ shiftRows (invShiftRows x) = x ∧ invMixColumns (mixColumns x) = x ∧ mixColumns (invMixColumns x) = x
      ∧ (∀ ks r, addRoundKey ks r (addRoundKey ks r x) = x)
      ∧ subBytes (shiftRows x) = shiftRows (subBytes x)
      ∧ invSubBytes (invShiftRows x) = invShiftRows (invSubBytes x)

/-! ## Key schedules -/

/-- R172: the AES key expansion, its length, its root words, its recurrence, and its place in `KS`. -/
def Obligations.AesKeyExpansion : Prop :=
  ∀ (key : List Byte) (nk : Nat), nk = 4 ∨ nk = 6 ∨ nk = 8 → key.length = 4 * nk →
    let w := fun i => (aesSchedule key nk).getD i zeroWord
    let last := 4 * (nk + 7)
    (aesSchedule key nk).length = last
      ∧ (∀ i, i < nk → ∀ j : Fin 4, (w i)[j] = key.getD (4 * i + j.val) 0)
      ∧ (∀ i, nk ≤ i → i < last →
          let temp :=
            if i % nk = 0 then xorWord (subWord (rotWord (w (i - 1)))) #v[rcon (i / nk - 1), 0, 0, 0]
            else if 6 < nk ∧ i % nk = 4 then subWord (w (i - 1))
            else w (i - 1)
          w i = xorWord (w (i - nk)) temp)
      ∧ ∀ i, i < 60 → ∀ j : Fin 4,
          readElem (storeWords (aesSchedule key nk)) (4 * i + j.val) 0 = if i < last then (w i)[j] else 0

/-- R180: the sixteen DES round keys, each from the halves of PC-1 rotated by the counts up to its round, and their
place in `KS`; R182: keys that differ only in the parity positions give the same keys, and the rule's examples. -/
def Obligations.DesKeySchedule : Prop :=
  (∀ key : BitVec 64,
    let keys := desSchedule key
    let c := permute 28 key (pc1Table.take 28)
    let d := permute 28 key (pc1Table.drop 28)
    keys.length = 16
      ∧ (∀ k, k < 16 →
          let count := (shiftsTable.take (k + 1)).sum
          keys.getD k 0 = permute 48 (leftRotate c count ++ leftRotate d count) pc2Table
            ∧ desRoundKey (storeDesKeys keys) k = keys.getD k 0)
      ∧ ∀ n, 96 ≤ n → n < 240 → readElem (storeDesKeys keys) n 0 = 0)
    ∧ (∀ a b : BitVec 64, (∀ p, 1 ≤ p → p ≤ 64 → p % 8 ≠ 0 → bitAt a p = bitAt b p) → desSchedule a = desSchedule b)
    ∧ desSchedule 0x0000000000000000 = List.replicate 16 0x000000000000
    ∧ desSchedule 0x0101010101010101 = List.replicate 16 0x000000000000
    ∧ desSchedule 0xFFFFFFFFFFFFFFFF = List.replicate 16 0xFFFFFFFFFFFF

/-! ## The step list -/

/-- R232, R233: the queue of every session, entry by entry, its length, and zero from `QLEN` on. -/
def Obligations.QueueEnumeration : Prop :=
  ∀ ses : Session,
    let q := fun n => readElem (queueOf ses) n 0
    let word := fun (kind r : Nat) => BitVec.ofNat 16 (256 * kind + r)
    let nr := match ses.keySize with
      | .k128 => 10
      | .k192 => 12
      | .k256 => 14
    (ses.alg = .aes → ses.mode = .enc →
        (qlenOf ses).toNat = 4 * nr ∧ q 0 = word 1 0 ∧ q (4 * nr - 1) = word 1 nr
          ∧ ∀ r, 1 ≤ r → r ≤ nr →
            q (4 * r - 3) = word 2 r ∧ q (4 * r - 2) = word 3 r
              ∧ (r < nr → q (4 * r - 1) = word 4 r ∧ q (4 * r) = word 1 r))
      ∧ (ses.alg = .aes → ses.mode = .dec →
          (qlenOf ses).toNat = 4 * nr ∧ q 0 = word 1 nr
            ∧ ∀ r, r < nr →
              let n := 4 * (nr - 1 - r)
              q (n + 1) = word 6 r ∧ q (n + 2) = word 5 r ∧ q (n + 3) = word 1 r ∧ (0 < r → q (n + 4) = word 7 r))
      ∧ (ses.alg = .des →
          (qlenOf ses).toNat = 18 ∧ q 0 = word 8 0 ∧ q 17 = word 10 0
            ∧ ∀ j, j ≤ 15 → q (1 + j) = word 9 (if ses.mode = .enc then j else 15 - j))
      ∧ ∀ n, (qlenOf ses).toNat ≤ n → n < 56 → q n = 0x0000

/-- R94, R239, R241: every step of an enumerated list is legal in its session, and the last is the terminal one. -/
def Obligations.EnumeratedStepsLegal : Prop :=
  ∀ ses : Session,
    (∀ i ∈ stepList ses, isStepInstr i = true ∧ legal ses i = true)
      ∧ (stepList ses).getLast?.map descOf = some (terminalDesc ses)

/-- R200, R217, R218, R251: under one key schedule the two step lists of a session undo each other on every block. -/
def Obligations.StepListsInvert : Prop :=
  ∀ (ses : Session) (ks : KeyStore) (b : Block),
    let enc := replay ks (stepList { ses with mode := .enc })
    let dec := replay ks (stepList { ses with mode := .dec })
    dec (enc b) = b ∧ enc (dec b) = b

/-! ## The host interface -/

/-- R270, R272, R273, R274: what a write of each register stores, and that every other write changes nothing. -/
def Obligations.HostWrites : Prop :=
  ∀ (s : State) (i j v : Nat),
    hostTurn (.write 0x01 i j v) s = .next { s with config := BitVec.ofNat 8 (v % 64) }
      ∧ hostTurn (.write 0x10 i j v) s = .next { s with textLen := BitVec.ofNat 8 (v % 256) }
      ∧ hostTurn (.write 0x11 i j v) s = .next { s with keyLen := BitVec.ofNat 8 (v % 256) }
      ∧ (∃ buf, hostTurn (.write 0x20 i j v) s = .next { s with textBuf := buf }
          ∧ ∀ n, n < 64 → readElem buf n 0 = if n = i then BitVec.ofNat 8 (v % 256) else readElem s.textBuf n 0)
      ∧ (∃ buf, hostTurn (.write 0x21 i j v) s = .next { s with keyBuf := buf }
          ∧ ∀ n, n < 64 → readElem buf n 0 = if n = i then BitVec.ofNat 8 (v % 256) else readElem s.keyBuf n 0)
      ∧ (64 ≤ i → hostTurn (.write 0x20 i j v) s = .next s ∧ hostTurn (.write 0x21 i j v) s = .next s)
      ∧ ∀ n : Byte, n.toNat ∉ [0x00, 0x01, 0x10, 0x11, 0x20, 0x21] → hostTurn (.write n i j v) s = .next s

/-- R275, R65: a read changes nothing in the machine and can be repeated; unmapped numbers, `CMD` and indices out of
range read 0; the scalar registers and the buffers read what they hold. What a read returns joins the values the host
has received, the model's own record of it (log entry 2). -/
def Obligations.HostReads : Prop :=
  ∀ (s : State) (i j : Nat),
    (∀ n, hostTurn (.read n i j) s = .next { s with seen := s.seen ++ [hostRead n i j s] }
        ∧ hostRead n i j { s with seen := s.seen ++ [hostRead n i j s] } = hostRead n i j s)
      ∧ (∀ n : Byte, n.toNat ∉ [0x01, 0x02, 0x03, 0x04, 0x05, 0x06, 0x07, 0x08, 0x09, 0x0A, 0x10, 0x11, 0x20, 0x21, 0x30,
            0x31, 0x32, 0x33, 0x34, 0x35] → hostRead n i j s = 0)
      ∧ (64 ≤ i → hostRead 0x20 i j s = 0 ∧ hostRead 0x21 i j s = 0)
      ∧ (16 ≤ i → hostRead 0x30 i j s = 0) ∧ (32 ≤ i → hostRead 0x31 i j s = 0)
      ∧ (s.sAlg = .aes → 15 ≤ i ∨ 16 ≤ j → hostRead 0x32 i j s = 0)
      ∧ (s.sAlg = .des → 16 ≤ i ∨ 6 ≤ j → hostRead 0x32 i j s = 0)
      ∧ (56 ≤ i → hostRead 0x33 i j s = 0 ∧ hostRead 0x34 i j s = 0 ∧ hostRead 0x35 i j s = 0)
      ∧ (16 ≤ j → hostRead 0x35 i j s = 0)
      ∧ (i < 64 → hostRead 0x20 i j s = (readElem s.textBuf i 0).setWidth 16
          ∧ hostRead 0x21 i j s = (readElem s.keyBuf i 0).setWidth 16)
      ∧ hostRead 0x06 i j s = s.round.setWidth 16 ∧ hostRead 0x07 i j s = s.qhead.setWidth 16
      ∧ hostRead 0x08 i j s = s.qlen.setWidth 16 ∧ hostRead 0x09 i j s = s.err.setWidth 16
      ∧ hostRead 0x10 i j s = s.textLen.setWidth 16 ∧ hostRead 0x11 i j s = s.keyLen.setWidth 16

/-- R36, R37, R38: `CONFIG` reads back its six low bits; `NR`, `KEYLEN` and `TEXTLEN` are functions of it; `STATUS` and
`STATUS2` field by field. -/
def Obligations.ComputedRegisters : Prop :=
  ∀ (s : State) (i j : Nat),
    let alg := cfgAlg s
    let ks := cfgKeysize s
    let status := hostRead 0x02 i j s
    (hostRead 0x01 i j s).toNat = s.config.toNat % 64
      ∧ (hostRead 0x03 i j s).toNat = (if alg = 0 ∧ ks < 3 then 10 + 2 * ks else if alg = 1 then 16 else 0)
      ∧ (hostRead 0x04 i j s).toNat = (if alg = 0 ∧ ks < 3 then 32 + 16 * ks else if alg = 1 then 16 else 0)
      ∧ (hostRead 0x05 i j s).toNat = (if alg = 0 then 32 else if alg = 1 then 16 else 0)
      ∧ (status.toNat % 4 = match s.seq with
          | .ready => 0
          | .running => 1
          | .paused => 2
          | .complete => 3)
      ∧ status.getLsbD 2 = s.loaded ∧ status.getLsbD 3 = decide (s.seq = .paused) ∧ status.getLsbD 4 = s.fatal
      ∧ status.getLsbD 5 = decide (s.sAlg = .des) ∧ status.getLsbD 6 = decide (s.sMode = .dec) ∧ status.toNat < 128
      ∧ (hostRead 0x0A i j s).toNat = match s.sKeysize with
        | .k128 => 0
        | .k192 => 1
        | .k256 => 2

/-- R276, R280, R111: `STATE` reads the block, and `OUT_HEX` its uppercase hexadecimal text, 16 characters of it for a
DES session; in a DES session `STATE[8..15]` read 0. -/
def Obligations.StatePorts : Prop :=
  ∀ (s : State) (n j : Nat),
    (n < 16 → hostRead 0x30 n j s = (readElem s.st n 0).setWidth 16)
      ∧ (n < (if s.sAlg = .aes then 32 else 16) →
          let byte := (readElem s.st (n / 2) 0).toNat
          let v := if n % 2 = 0 then byte / 16 else byte % 16
          (hostRead 0x31 n j s).toNat = if v ≤ 9 then 0x30 + v else 0x41 + v - 10)
      ∧ ((if s.sAlg = .aes then 32 else 16) ≤ n → hostRead 0x31 n j s = 0)
      ∧ (Inv s → s.sAlg = .des → 8 ≤ n → hostRead 0x30 n j s = 0)

/-- R277, R278, R279: `QUEUE`, `RKEY`, `HIST_DESC` and `HIST_SNAP` read the session's arrays, 0 past the queue's length,
past the last round key and past the history. -/
def Obligations.SessionPorts : Prop :=
  ∀ (s : State) (n j : Nat), Inv s →
    (n < 56 → hostRead 0x33 n j s = readElem s.q n 0 ∧ hostRead 0x34 n j s = readElem s.hd n 0)
      ∧ (n < 56 → j < 16 → hostRead 0x35 n j s = (readElem (readElem s.hs n zeroBlock) j 0).setWidth 16)
      ∧ (s.qlen.toNat ≤ n → hostRead 0x33 n j s = 0)
      ∧ (s.qhead.toNat ≤ n → hostRead 0x34 n j s = 0 ∧ hostRead 0x35 n j s = 0)
      ∧ (s.sAlg = .des → 8 ≤ j → hostRead 0x35 n j s = 0)
      ∧ (s.sAlg = .aes → n ≤ 14 → j ≤ 15 → hostRead 0x32 n j s = (readElem s.ks (16 * n + j) 0).setWidth 16)
      ∧ (s.sAlg = .aes → sNr (sessionOf s) < n → hostRead 0x32 n j s = 0)
      ∧ (s.sAlg = .des → n ≤ 15 → j ≤ 5 → hostRead 0x32 n j s = (readElem s.ks (6 * n + j) 0).setWidth 16)

/-- R110, R111: `hexval` is defined for exactly the 22 codes, with the values given; a pair of characters gives
its byte, the first the high nibble; a buffer that holds the hexadecimal text of some bytes parses to those bytes. -/
def Obligations.HexText : Prop :=
  (∀ c v : Byte, hexval c = some v ↔
      (0x30 ≤ c.toNat ∧ c.toNat ≤ 0x39 ∧ v.toNat = c.toNat - 0x30)
        ∨ (0x41 ≤ c.toNat ∧ c.toNat ≤ 0x46 ∧ v.toNat = c.toNat - 0x41 + 10)
        ∨ (0x61 ≤ c.toNat ∧ c.toNat ≤ 0x66 ∧ v.toNat = c.toNat - 0x61 + 10))
    ∧ (∀ (buf : Vector Byte Config.bufcap) (n m : Nat) (a b : Byte), m < n →
        hexval (readElem buf (2 * m) 0) = some a → hexval (readElem buf (2 * m + 1) 0) = some b →
        ((parseBytes buf n).getD m 0).toNat = 16 * a.toNat + b.toNat)
    ∧ ∀ (xs : List Byte) (buf : Vector Byte Config.bufcap),
        xs.length ≤ 32 → Holds buf (hexText xs) → parseBytes buf xs.length = xs

/-- R282: the binary rendering, its length and its every character. -/
def Obligations.BinaryRendering : Prop :=
  ∀ xs : List Byte, xs ≠ [] →
    (binText xs).length = 9 * xs.length - 1
      ∧ ∀ m, m < xs.length →
        (∀ p, p < 8 → (binText xs).getD (9 * m + p) 0 = if (xs.getD m 0).getLsbD (7 - p) then 0x31 else 0x30)
          ∧ (m + 1 < xs.length → (binText xs).getD (9 * m + 8) 0 = 0x20)

/-! ## The whole machine -/

/-- R45, R340: the state after power-on reset, field by field. -/
def Obligations.ResetState : Prop :=
  let s := State.reset
  s.st = zeroBlock ∧ (∀ n, n < 240 → readElem s.ks n 1 = 0)
    ∧ (∀ n, n < 56 → readElem s.q n 1 = 0 ∧ readElem s.hd n 1 = 0
        ∧ ∀ m, m < 16 → readElem (readElem s.hs n (Vector.replicate 16 1)) m 1 = 0)
    ∧ s.qlen = 0 ∧ s.qhead = 0 ∧ s.round = 0 ∧ s.sAlg = .aes ∧ s.sKeysize = .k128 ∧ s.sMode = .enc
    ∧ s.seq = .ready ∧ s.loaded = false ∧ s.fatal = false ∧ s.config = 0x00
    ∧ (∀ n, n < 64 → readElem s.textBuf n 1 = 0 ∧ readElem s.keyBuf n 1 = 0)
    ∧ s.textLen = 0 ∧ s.keyLen = 0 ∧ s.err = 0x00 ∧ s.evt = []

/-- The invariant holds after power-on reset. -/
def Obligations.InvAtReset : Prop := Inv State.reset

/-- R44, with R23 to R30 and R306: every transition, of the host or of the engine, keeps the invariant. -/
def Obligations.StepKeepsInv : Prop :=
  ∀ s t : State, Inv s → step s = .next t → Inv t

/-- R288, R306, R357: in every state of the invariant a step answers a next state, whatever the next turn is; no fault or
refusal is met, and no internal invariant error is raised. On an engine turn that is not enabled the spec's engine makes
no transition (R238); that the step answers the state unchanged there is the model's choice (log entry 4). -/
def Obligations.InvNeverStops : Prop :=
  ∀ s : State, Inv s → ∃ t, step s = .next t ∧ t.fatal = false
    ∧ ∀ es e, t.evt = s.evt ++ es → .error e ∈ es → errorKind e ≠ .internalInvariant

/-- R26, R27, R35, R77, R289: but for an `INIT` or a `RESET` no transition changes the key schedule, the queue or the
latched configuration, and none loads, unloads or un-fails a session. -/
def Obligations.SessionImmutable : Prop :=
  ∀ s t : State, step s = .next t → nextKeepsSession s = true →
    t.ks = s.ks ∧ t.q = s.q ∧ t.qlen = s.qlen ∧ sessionOf t = sessionOf s ∧ t.loaded = s.loaded
      ∧ (s.fatal = true → t.fatal = true)

/-- R28, R29: but for an `INIT` or a `RESET` the program counter only stays or advances by one, with one history entry
for each advance, and no entry before it ever changes. -/
def Obligations.HistoryAppendOnly : Prop :=
  ∀ s t : State, step s = .next t → nextKeepsSession s = true →
    (t.qhead = s.qhead ∧ t.st = s.st ∧ t.hd = s.hd ∧ t.hs = s.hs ∧ t.round = s.round)
      ∨ (t.qhead.toNat = s.qhead.toNat + 1
          ∧ readElem t.hd s.qhead.toNat 0 = readElem s.q s.qhead.toNat 0
          ∧ readElem t.hs s.qhead.toNat zeroBlock = t.st
          ∧ t.round = roundOf (readElem s.q s.qhead.toNat 0)
          ∧ ∀ e, e < 56 → e ≠ s.qhead.toNat →
              readElem t.hd e 0 = readElem s.hd e 0 ∧ readElem t.hs e zeroBlock = readElem s.hs e zeroBlock)

/-- R248, R254, R356: a run that no host turn disturbs completes after exactly `QLEN - QHEAD` steps, with the block of
its remaining steps, two records a step and one `RunComplete`. -/
def Obligations.RunReachesComplete : Prop :=
  ∀ s : State, Inv s → s.seq = .running → (∀ turn ∈ s.script, turn = .engine) →
    let n := s.qlen.toNat - s.qhead.toNat
    ∃ t es, runSteps n s = .next t ∧ t.seq = .complete ∧ t.qhead = s.qlen ∧ t.ks = s.ks
      ∧ t.st = replay s.ks ((stepList (sessionOf s)).drop s.qhead.toNat) s.st
      ∧ t.evt = s.evt ++ es ++ [.runComplete (eventBlock s.sAlg t.st)] ∧ es.length = 2 * n

/-- R250: from a newly built session, any turns but `INIT` and `RESET` that end in `COMPLETE` leave the block, the
history and the run's records that `RUN` and `QLEN` engine transitions leave. -/
def Obligations.PauseResumeNonInterference : Prop :=
  ∀ (s : State) (ts : List Turn) (t : State),
    Inv s → s.loaded = true → s.seq = .ready → (∀ turn ∈ ts, keepsSession turn = true) →
    runSteps ts.length (setScript ts s) = .next t → t.seq = .complete →
    ∃ u, runSteps (s.qlen.toNat + 1) (setScript (cmd 0x02 :: engine s.qlen.toNat) s) = .next u
      ∧ u.seq = .complete ∧ t.st = u.st ∧ t.hd = u.hd ∧ t.hs = u.hs
      ∧ t.evt.filter isRunEvent = u.evt.filter isRunEvent

/-- R251: an encrypting run completes, and a decrypting run of the same algorithm, key size and key on the hexadecimal
text of its output completes with the first run's input block. -/
def Obligations.RoundTrip : Prop :=
  ∀ s : State, InitOk s → cfgMode s = 0 →
    ∃ e, wholeRun s = .next e ∧ e.seq = .complete
      ∧ ∀ s' : State, InitOk s' → configured s' = { configured s with mode := .dec } →
        (∀ n, n < requiredKey s → readElem s'.keyBuf n 0 = readElem s.keyBuf n 0) →
        (∀ n, n < requiredText s → readElem s'.textBuf n 0 = outHex e n) →
        ∃ d, wholeRun s' = .next d ∧ d.seq = .complete
          ∧ ∀ n, n < requiredText s / 2 → readElem d.st n 0 = hexByte s.textBuf n

/-- R252: the two normative known vectors, from any state that holds their inputs. -/
def Obligations.KnownVectors : Prop :=
  (∀ s : State, s.config = 0x00 → s.textLen = 32 → s.keyLen = 32 →
      Holds s.textBuf (charCodes "00112233445566778899aabbccddeeff") →
      Holds s.keyBuf (charCodes "000102030405060708090a0b0c0d0e0f") →
      ∃ t, wholeRun s = .next t ∧ t.seq = .complete
        ∧ (List.range 32).map (outHex t) = charCodes "69C4E0D86A7B0430D8CDB78070B4C55A")
    ∧ ∀ s : State, s.config = 0x01 → s.textLen = 16 → s.keyLen = 16 →
        Holds s.textBuf (charCodes "0123456789ABCDEF") → Holds s.keyBuf (charCodes "133457799BBCDFF1") →
        ∃ t, wholeRun s = .next t ∧ t.seq = .complete
          ∧ (List.range 16).map (outHex t) = charCodes "85E813540F0AB405"
end

