-- ==== Sys2Proof/Laws/State.lean ====
section
/-! SUPPORT. One lemma per field per update of the state, so that no later proof unfolds a record update. -/

namespace Sys2Proof.Machine

@[simp] theorem emit_st (e : Event) (s : State) : (emit e s).st = s.st := rfl
@[simp] theorem emit_ks (e : Event) (s : State) : (emit e s).ks = s.ks := rfl
@[simp] theorem emit_q (e : Event) (s : State) : (emit e s).q = s.q := rfl
@[simp] theorem emit_qlen (e : Event) (s : State) : (emit e s).qlen = s.qlen := rfl
@[simp] theorem emit_qhead (e : Event) (s : State) : (emit e s).qhead = s.qhead := rfl
@[simp] theorem emit_hd (e : Event) (s : State) : (emit e s).hd = s.hd := rfl
@[simp] theorem emit_hs (e : Event) (s : State) : (emit e s).hs = s.hs := rfl
@[simp] theorem emit_round (e : Event) (s : State) : (emit e s).round = s.round := rfl
@[simp] theorem emit_sAlg (e : Event) (s : State) : (emit e s).sAlg = s.sAlg := rfl
@[simp] theorem emit_sKeysize (e : Event) (s : State) : (emit e s).sKeysize = s.sKeysize := rfl
@[simp] theorem emit_sMode (e : Event) (s : State) : (emit e s).sMode = s.sMode := rfl
@[simp] theorem emit_seq (e : Event) (s : State) : (emit e s).seq = s.seq := rfl
@[simp] theorem emit_loaded (e : Event) (s : State) : (emit e s).loaded = s.loaded := rfl
@[simp] theorem emit_fatal (e : Event) (s : State) : (emit e s).fatal = s.fatal := rfl
@[simp] theorem emit_config (e : Event) (s : State) : (emit e s).config = s.config := rfl
@[simp] theorem emit_textBuf (e : Event) (s : State) : (emit e s).textBuf = s.textBuf := rfl
@[simp] theorem emit_textLen (e : Event) (s : State) : (emit e s).textLen = s.textLen := rfl
@[simp] theorem emit_keyBuf (e : Event) (s : State) : (emit e s).keyBuf = s.keyBuf := rfl
@[simp] theorem emit_keyLen (e : Event) (s : State) : (emit e s).keyLen = s.keyLen := rfl
@[simp] theorem emit_err (e : Event) (s : State) : (emit e s).err = s.err := rfl
@[simp] theorem emit_evt (e : Event) (s : State) : (emit e s).evt = s.evt ++ [e] := rfl
@[simp] theorem emit_script (e : Event) (s : State) : (emit e s).script = s.script := rfl
@[simp] theorem emit_seen (e : Event) (s : State) : (emit e s).seen = s.seen := rfl

@[simp] theorem setSeq_st (x : Seq) (s : State) : (setSeq x s).st = s.st := rfl
@[simp] theorem setSeq_ks (x : Seq) (s : State) : (setSeq x s).ks = s.ks := rfl
@[simp] theorem setSeq_q (x : Seq) (s : State) : (setSeq x s).q = s.q := rfl
@[simp] theorem setSeq_qlen (x : Seq) (s : State) : (setSeq x s).qlen = s.qlen := rfl
@[simp] theorem setSeq_qhead (x : Seq) (s : State) : (setSeq x s).qhead = s.qhead := rfl
@[simp] theorem setSeq_hd (x : Seq) (s : State) : (setSeq x s).hd = s.hd := rfl
@[simp] theorem setSeq_hs (x : Seq) (s : State) : (setSeq x s).hs = s.hs := rfl
@[simp] theorem setSeq_round (x : Seq) (s : State) : (setSeq x s).round = s.round := rfl
@[simp] theorem setSeq_sAlg (x : Seq) (s : State) : (setSeq x s).sAlg = s.sAlg := rfl
@[simp] theorem setSeq_sKeysize (x : Seq) (s : State) : (setSeq x s).sKeysize = s.sKeysize := rfl
@[simp] theorem setSeq_sMode (x : Seq) (s : State) : (setSeq x s).sMode = s.sMode := rfl
@[simp] theorem setSeq_seq (x : Seq) (s : State) : (setSeq x s).seq = x := rfl
@[simp] theorem setSeq_loaded (x : Seq) (s : State) : (setSeq x s).loaded = s.loaded := rfl
@[simp] theorem setSeq_fatal (x : Seq) (s : State) : (setSeq x s).fatal = s.fatal := rfl
@[simp] theorem setSeq_config (x : Seq) (s : State) : (setSeq x s).config = s.config := rfl
@[simp] theorem setSeq_textBuf (x : Seq) (s : State) : (setSeq x s).textBuf = s.textBuf := rfl
@[simp] theorem setSeq_textLen (x : Seq) (s : State) : (setSeq x s).textLen = s.textLen := rfl
@[simp] theorem setSeq_keyBuf (x : Seq) (s : State) : (setSeq x s).keyBuf = s.keyBuf := rfl
@[simp] theorem setSeq_keyLen (x : Seq) (s : State) : (setSeq x s).keyLen = s.keyLen := rfl
@[simp] theorem setSeq_err (x : Seq) (s : State) : (setSeq x s).err = s.err := rfl
@[simp] theorem setSeq_evt (x : Seq) (s : State) : (setSeq x s).evt = s.evt := rfl
@[simp] theorem setSeq_script (x : Seq) (s : State) : (setSeq x s).script = s.script := rfl
@[simp] theorem setSeq_seen (x : Seq) (s : State) : (setSeq x s).seen = s.seen := rfl

@[simp] theorem raise_st (e : ErrorCode) (s : State) : (raise e s).st = s.st := rfl
@[simp] theorem raise_ks (e : ErrorCode) (s : State) : (raise e s).ks = s.ks := rfl
@[simp] theorem raise_q (e : ErrorCode) (s : State) : (raise e s).q = s.q := rfl
@[simp] theorem raise_qlen (e : ErrorCode) (s : State) : (raise e s).qlen = s.qlen := rfl
@[simp] theorem raise_qhead (e : ErrorCode) (s : State) : (raise e s).qhead = s.qhead := rfl
@[simp] theorem raise_hd (e : ErrorCode) (s : State) : (raise e s).hd = s.hd := rfl
@[simp] theorem raise_hs (e : ErrorCode) (s : State) : (raise e s).hs = s.hs := rfl
@[simp] theorem raise_round (e : ErrorCode) (s : State) : (raise e s).round = s.round := rfl
@[simp] theorem raise_sAlg (e : ErrorCode) (s : State) : (raise e s).sAlg = s.sAlg := rfl
@[simp] theorem raise_sKeysize (e : ErrorCode) (s : State) : (raise e s).sKeysize = s.sKeysize := rfl
@[simp] theorem raise_sMode (e : ErrorCode) (s : State) : (raise e s).sMode = s.sMode := rfl
@[simp] theorem raise_seq (e : ErrorCode) (s : State) : (raise e s).seq = s.seq := rfl
@[simp] theorem raise_loaded (e : ErrorCode) (s : State) : (raise e s).loaded = s.loaded := rfl
@[simp] theorem raise_fatal (e : ErrorCode) (s : State) : (raise e s).fatal = (s.fatal || errorKind e = .internalInvariant) := rfl
@[simp] theorem raise_config (e : ErrorCode) (s : State) : (raise e s).config = s.config := rfl
@[simp] theorem raise_textBuf (e : ErrorCode) (s : State) : (raise e s).textBuf = s.textBuf := rfl
@[simp] theorem raise_textLen (e : ErrorCode) (s : State) : (raise e s).textLen = s.textLen := rfl
@[simp] theorem raise_keyBuf (e : ErrorCode) (s : State) : (raise e s).keyBuf = s.keyBuf := rfl
@[simp] theorem raise_keyLen (e : ErrorCode) (s : State) : (raise e s).keyLen = s.keyLen := rfl
@[simp] theorem raise_err (e : ErrorCode) (s : State) : (raise e s).err = errorByte e := rfl
@[simp] theorem raise_evt (e : ErrorCode) (s : State) : (raise e s).evt = s.evt ++ [.error e] := rfl
@[simp] theorem raise_script (e : ErrorCode) (s : State) : (raise e s).script = s.script := rfl
@[simp] theorem raise_seen (e : ErrorCode) (s : State) : (raise e s).seen = s.seen := rfl

@[simp] theorem sessionReset_st (s : State) : (sessionReset s).st = zeroBlock := rfl
@[simp] theorem sessionReset_ks (s : State) : (sessionReset s).ks = Vector.replicate Config.ksBytes 0 := rfl
@[simp] theorem sessionReset_q (s : State) : (sessionReset s).q = Vector.replicate Config.qcap 0 := rfl
@[simp] theorem sessionReset_qlen (s : State) : (sessionReset s).qlen = 0 := rfl
@[simp] theorem sessionReset_qhead (s : State) : (sessionReset s).qhead = 0 := rfl
@[simp] theorem sessionReset_hd (s : State) : (sessionReset s).hd = Vector.replicate Config.hcap 0 := rfl
@[simp] theorem sessionReset_hs (s : State) : (sessionReset s).hs = Vector.replicate Config.hcap zeroBlock := rfl
@[simp] theorem sessionReset_round (s : State) : (sessionReset s).round = 0 := rfl
@[simp] theorem sessionReset_sAlg (s : State) : (sessionReset s).sAlg = .aes := rfl
@[simp] theorem sessionReset_sKeysize (s : State) : (sessionReset s).sKeysize = .k128 := rfl
@[simp] theorem sessionReset_sMode (s : State) : (sessionReset s).sMode = .enc := rfl
@[simp] theorem sessionReset_seq (s : State) : (sessionReset s).seq = .ready := rfl
@[simp] theorem sessionReset_loaded (s : State) : (sessionReset s).loaded = false := rfl
@[simp] theorem sessionReset_fatal (s : State) : (sessionReset s).fatal = false := rfl
@[simp] theorem sessionReset_config (s : State) : (sessionReset s).config = s.config := rfl
@[simp] theorem sessionReset_textBuf (s : State) : (sessionReset s).textBuf = s.textBuf := rfl
@[simp] theorem sessionReset_textLen (s : State) : (sessionReset s).textLen = s.textLen := rfl
@[simp] theorem sessionReset_keyBuf (s : State) : (sessionReset s).keyBuf = s.keyBuf := rfl
@[simp] theorem sessionReset_keyLen (s : State) : (sessionReset s).keyLen = s.keyLen := rfl
@[simp] theorem sessionReset_err (s : State) : (sessionReset s).err = 0x00 := rfl
@[simp] theorem sessionReset_evt (s : State) : (sessionReset s).evt = s.evt := rfl
@[simp] theorem sessionReset_script (s : State) : (sessionReset s).script = s.script := rfl
@[simp] theorem sessionReset_seen (s : State) : (sessionReset s).seen = s.seen := rfl

@[simp] theorem record_st (d : Desc) (x : Block) (s : State) : (record d x s).st = x := rfl
@[simp] theorem record_ks (d : Desc) (x : Block) (s : State) : (record d x s).ks = s.ks := rfl
@[simp] theorem record_q (d : Desc) (x : Block) (s : State) : (record d x s).q = s.q := rfl
@[simp] theorem record_qlen (d : Desc) (x : Block) (s : State) : (record d x s).qlen = s.qlen := rfl
@[simp] theorem record_qhead (d : Desc) (x : Block) (s : State) : (record d x s).qhead = s.qhead + 1 := rfl
@[simp] theorem record_hd (d : Desc) (x : Block) (s : State) : (record d x s).hd = writeElem s.hd s.qhead.toNat d := rfl
@[simp] theorem record_hs (d : Desc) (x : Block) (s : State) : (record d x s).hs = writeElem s.hs s.qhead.toNat x := rfl
@[simp] theorem record_round (d : Desc) (x : Block) (s : State) : (record d x s).round = roundOf d := rfl
@[simp] theorem record_sAlg (d : Desc) (x : Block) (s : State) : (record d x s).sAlg = s.sAlg := rfl
@[simp] theorem record_sKeysize (d : Desc) (x : Block) (s : State) : (record d x s).sKeysize = s.sKeysize := rfl
@[simp] theorem record_sMode (d : Desc) (x : Block) (s : State) : (record d x s).sMode = s.sMode := rfl
@[simp] theorem record_seq (d : Desc) (x : Block) (s : State) : (record d x s).seq = s.seq := rfl
@[simp] theorem record_loaded (d : Desc) (x : Block) (s : State) : (record d x s).loaded = s.loaded := rfl
@[simp] theorem record_fatal (d : Desc) (x : Block) (s : State) : (record d x s).fatal = s.fatal := rfl
@[simp] theorem record_config (d : Desc) (x : Block) (s : State) : (record d x s).config = s.config := rfl
@[simp] theorem record_textBuf (d : Desc) (x : Block) (s : State) : (record d x s).textBuf = s.textBuf := rfl
@[simp] theorem record_textLen (d : Desc) (x : Block) (s : State) : (record d x s).textLen = s.textLen := rfl
@[simp] theorem record_keyBuf (d : Desc) (x : Block) (s : State) : (record d x s).keyBuf = s.keyBuf := rfl
@[simp] theorem record_keyLen (d : Desc) (x : Block) (s : State) : (record d x s).keyLen = s.keyLen := rfl
@[simp] theorem record_err (d : Desc) (x : Block) (s : State) : (record d x s).err = s.err := rfl
@[simp] theorem record_evt (d : Desc) (x : Block) (s : State) : (record d x s).evt = s.evt := rfl
@[simp] theorem record_script (d : Desc) (x : Block) (s : State) : (record d x s).script = s.script := rfl
@[simp] theorem record_seen (d : Desc) (x : Block) (s : State) : (record d x s).seen = s.seen := rfl

@[simp] theorem construct_st (ses : Session) (s : State) : (construct ses s).st = loadBlock (parseBytes s.textBuf (textLenOf ses.alg / 2)) := rfl
@[simp] theorem construct_ks (ses : Session) (s : State) : (construct ses s).ks = keySchedule ses (parseBytes s.keyBuf (keyLenOf ses.alg ses.keySize / 2)) := rfl
@[simp] theorem construct_q (ses : Session) (s : State) : (construct ses s).q = queueOf ses := rfl
@[simp] theorem construct_qlen (ses : Session) (s : State) : (construct ses s).qlen = qlenOf ses := rfl
@[simp] theorem construct_qhead (ses : Session) (s : State) : (construct ses s).qhead = 0 := rfl
@[simp] theorem construct_hd (ses : Session) (s : State) : (construct ses s).hd = Vector.replicate Config.hcap 0 := rfl
@[simp] theorem construct_hs (ses : Session) (s : State) : (construct ses s).hs = Vector.replicate Config.hcap zeroBlock := rfl
@[simp] theorem construct_round (ses : Session) (s : State) : (construct ses s).round = 0 := rfl
@[simp] theorem construct_sAlg (ses : Session) (s : State) : (construct ses s).sAlg = ses.alg := rfl
@[simp] theorem construct_sKeysize (ses : Session) (s : State) : (construct ses s).sKeysize = ses.keySize := rfl
@[simp] theorem construct_sMode (ses : Session) (s : State) : (construct ses s).sMode = ses.mode := rfl
@[simp] theorem construct_seq (ses : Session) (s : State) : (construct ses s).seq = .ready := rfl
@[simp] theorem construct_loaded (ses : Session) (s : State) : (construct ses s).loaded = true := rfl
@[simp] theorem construct_fatal (ses : Session) (s : State) : (construct ses s).fatal = false := rfl
@[simp] theorem construct_config (ses : Session) (s : State) : (construct ses s).config = s.config := rfl
@[simp] theorem construct_textBuf (ses : Session) (s : State) : (construct ses s).textBuf = s.textBuf := rfl
@[simp] theorem construct_textLen (ses : Session) (s : State) : (construct ses s).textLen = s.textLen := rfl
@[simp] theorem construct_keyBuf (ses : Session) (s : State) : (construct ses s).keyBuf = s.keyBuf := rfl
@[simp] theorem construct_keyLen (ses : Session) (s : State) : (construct ses s).keyLen = s.keyLen := rfl
@[simp] theorem construct_err (ses : Session) (s : State) : (construct ses s).err = 0x00 := rfl
@[simp] theorem construct_evt (ses : Session) (s : State) : (construct ses s).evt = s.evt := rfl
@[simp] theorem construct_script (ses : Session) (s : State) : (construct ses s).script = s.script := rfl
@[simp] theorem construct_seen (ses : Session) (s : State) : (construct ses s).seen = s.seen := rfl

@[simp] theorem receive_st (v : BitVec 16) (s : State) : (receive v s).st = s.st := rfl
@[simp] theorem receive_ks (v : BitVec 16) (s : State) : (receive v s).ks = s.ks := rfl
@[simp] theorem receive_q (v : BitVec 16) (s : State) : (receive v s).q = s.q := rfl
@[simp] theorem receive_qlen (v : BitVec 16) (s : State) : (receive v s).qlen = s.qlen := rfl
@[simp] theorem receive_qhead (v : BitVec 16) (s : State) : (receive v s).qhead = s.qhead := rfl
@[simp] theorem receive_hd (v : BitVec 16) (s : State) : (receive v s).hd = s.hd := rfl
@[simp] theorem receive_hs (v : BitVec 16) (s : State) : (receive v s).hs = s.hs := rfl
@[simp] theorem receive_round (v : BitVec 16) (s : State) : (receive v s).round = s.round := rfl
@[simp] theorem receive_sAlg (v : BitVec 16) (s : State) : (receive v s).sAlg = s.sAlg := rfl
@[simp] theorem receive_sKeysize (v : BitVec 16) (s : State) : (receive v s).sKeysize = s.sKeysize := rfl
@[simp] theorem receive_sMode (v : BitVec 16) (s : State) : (receive v s).sMode = s.sMode := rfl
@[simp] theorem receive_seq (v : BitVec 16) (s : State) : (receive v s).seq = s.seq := rfl
@[simp] theorem receive_loaded (v : BitVec 16) (s : State) : (receive v s).loaded = s.loaded := rfl
@[simp] theorem receive_fatal (v : BitVec 16) (s : State) : (receive v s).fatal = s.fatal := rfl
@[simp] theorem receive_config (v : BitVec 16) (s : State) : (receive v s).config = s.config := rfl
@[simp] theorem receive_textBuf (v : BitVec 16) (s : State) : (receive v s).textBuf = s.textBuf := rfl
@[simp] theorem receive_textLen (v : BitVec 16) (s : State) : (receive v s).textLen = s.textLen := rfl
@[simp] theorem receive_keyBuf (v : BitVec 16) (s : State) : (receive v s).keyBuf = s.keyBuf := rfl
@[simp] theorem receive_keyLen (v : BitVec 16) (s : State) : (receive v s).keyLen = s.keyLen := rfl
@[simp] theorem receive_err (v : BitVec 16) (s : State) : (receive v s).err = s.err := rfl
@[simp] theorem receive_evt (v : BitVec 16) (s : State) : (receive v s).evt = s.evt := rfl
@[simp] theorem receive_script (v : BitVec 16) (s : State) : (receive v s).script = s.script := rfl
@[simp] theorem receive_seen (v : BitVec 16) (s : State) : (receive v s).seen = s.seen ++ [v] := rfl

@[simp] theorem setScript_st (ts : List Turn) (s : State) : (setScript ts s).st = s.st := rfl
@[simp] theorem setScript_ks (ts : List Turn) (s : State) : (setScript ts s).ks = s.ks := rfl
@[simp] theorem setScript_q (ts : List Turn) (s : State) : (setScript ts s).q = s.q := rfl
@[simp] theorem setScript_qlen (ts : List Turn) (s : State) : (setScript ts s).qlen = s.qlen := rfl
@[simp] theorem setScript_qhead (ts : List Turn) (s : State) : (setScript ts s).qhead = s.qhead := rfl
@[simp] theorem setScript_hd (ts : List Turn) (s : State) : (setScript ts s).hd = s.hd := rfl
@[simp] theorem setScript_hs (ts : List Turn) (s : State) : (setScript ts s).hs = s.hs := rfl
@[simp] theorem setScript_round (ts : List Turn) (s : State) : (setScript ts s).round = s.round := rfl
@[simp] theorem setScript_sAlg (ts : List Turn) (s : State) : (setScript ts s).sAlg = s.sAlg := rfl
@[simp] theorem setScript_sKeysize (ts : List Turn) (s : State) : (setScript ts s).sKeysize = s.sKeysize := rfl
@[simp] theorem setScript_sMode (ts : List Turn) (s : State) : (setScript ts s).sMode = s.sMode := rfl
@[simp] theorem setScript_seq (ts : List Turn) (s : State) : (setScript ts s).seq = s.seq := rfl
@[simp] theorem setScript_loaded (ts : List Turn) (s : State) : (setScript ts s).loaded = s.loaded := rfl
@[simp] theorem setScript_fatal (ts : List Turn) (s : State) : (setScript ts s).fatal = s.fatal := rfl
@[simp] theorem setScript_config (ts : List Turn) (s : State) : (setScript ts s).config = s.config := rfl
@[simp] theorem setScript_textBuf (ts : List Turn) (s : State) : (setScript ts s).textBuf = s.textBuf := rfl
@[simp] theorem setScript_textLen (ts : List Turn) (s : State) : (setScript ts s).textLen = s.textLen := rfl
@[simp] theorem setScript_keyBuf (ts : List Turn) (s : State) : (setScript ts s).keyBuf = s.keyBuf := rfl
@[simp] theorem setScript_keyLen (ts : List Turn) (s : State) : (setScript ts s).keyLen = s.keyLen := rfl
@[simp] theorem setScript_err (ts : List Turn) (s : State) : (setScript ts s).err = s.err := rfl
@[simp] theorem setScript_evt (ts : List Turn) (s : State) : (setScript ts s).evt = s.evt := rfl
@[simp] theorem setScript_script (ts : List Turn) (s : State) : (setScript ts s).script = ts := rfl
@[simp] theorem setScript_seen (ts : List Turn) (s : State) : (setScript ts s).seen = s.seen := rfl

@[simp] theorem hostWrite_st (n : Byte) (i v : Nat) (s : State) : (hostWrite n i v s).st = s.st := by
  unfold hostWrite; split <;> rfl
@[simp] theorem hostWrite_ks (n : Byte) (i v : Nat) (s : State) : (hostWrite n i v s).ks = s.ks := by
  unfold hostWrite; split <;> rfl
@[simp] theorem hostWrite_q (n : Byte) (i v : Nat) (s : State) : (hostWrite n i v s).q = s.q := by
  unfold hostWrite; split <;> rfl
@[simp] theorem hostWrite_qlen (n : Byte) (i v : Nat) (s : State) : (hostWrite n i v s).qlen = s.qlen := by
  unfold hostWrite; split <;> rfl
@[simp] theorem hostWrite_qhead (n : Byte) (i v : Nat) (s : State) : (hostWrite n i v s).qhead = s.qhead := by
  unfold hostWrite; split <;> rfl
@[simp] theorem hostWrite_hd (n : Byte) (i v : Nat) (s : State) : (hostWrite n i v s).hd = s.hd := by
  unfold hostWrite; split <;> rfl
@[simp] theorem hostWrite_hs (n : Byte) (i v : Nat) (s : State) : (hostWrite n i v s).hs = s.hs := by
  unfold hostWrite; split <;> rfl
@[simp] theorem hostWrite_round (n : Byte) (i v : Nat) (s : State) : (hostWrite n i v s).round = s.round := by
  unfold hostWrite; split <;> rfl
@[simp] theorem hostWrite_sAlg (n : Byte) (i v : Nat) (s : State) : (hostWrite n i v s).sAlg = s.sAlg := by
  unfold hostWrite; split <;> rfl
@[simp] theorem hostWrite_sKeysize (n : Byte) (i v : Nat) (s : State) : (hostWrite n i v s).sKeysize = s.sKeysize := by
  unfold hostWrite; split <;> rfl
@[simp] theorem hostWrite_sMode (n : Byte) (i v : Nat) (s : State) : (hostWrite n i v s).sMode = s.sMode := by
  unfold hostWrite; split <;> rfl
@[simp] theorem hostWrite_seq (n : Byte) (i v : Nat) (s : State) : (hostWrite n i v s).seq = s.seq := by
  unfold hostWrite; split <;> rfl
@[simp] theorem hostWrite_loaded (n : Byte) (i v : Nat) (s : State) : (hostWrite n i v s).loaded = s.loaded := by
  unfold hostWrite; split <;> rfl
@[simp] theorem hostWrite_fatal (n : Byte) (i v : Nat) (s : State) : (hostWrite n i v s).fatal = s.fatal := by
  unfold hostWrite; split <;> rfl
@[simp] theorem hostWrite_err (n : Byte) (i v : Nat) (s : State) : (hostWrite n i v s).err = s.err := by
  unfold hostWrite; split <;> rfl
@[simp] theorem hostWrite_evt (n : Byte) (i v : Nat) (s : State) : (hostWrite n i v s).evt = s.evt := by
  unfold hostWrite; split <;> rfl
@[simp] theorem hostWrite_script (n : Byte) (i v : Nat) (s : State) : (hostWrite n i v s).script = s.script := by
  unfold hostWrite; split <;> rfl
@[simp] theorem hostWrite_seen (n : Byte) (i v : Nat) (s : State) : (hostWrite n i v s).seen = s.seen := by
  unfold hostWrite; split <;> rfl

end Sys2Proof.Machine
end

