-- ==== Sys2Proof/Laws/Host.lean ====
section
/-! SUPPORT. Laws of the host side: the register map, hexadecimal characters, and the checks of `INIT` in the numbers of
the spec. -/

namespace Sys2Proof.Machine

theorem hostReg_eq_cmd (n : Byte) : hostReg n = some .cmd ↔ n = 0x00 := by
  revert n; decide +kernel

/-- The numbers that hold a register a write reaches (R270). -/
theorem hostReg_writable (n : Byte) :
    n.toNat ∈ [0x00, 0x01, 0x10, 0x11, 0x20, 0x21]
      ∨ (hostReg n ≠ some .cmd ∧ hostReg n ≠ some .config ∧ hostReg n ≠ some .textLen ∧ hostReg n ≠ some .keyLen
          ∧ hostReg n ≠ some .textBuf ∧ hostReg n ≠ some .keyBuf) := by
  revert n; decide +kernel

/-- A write of any other register changes nothing (R270). -/
theorem hostWrite_ignored {n : Byte} (h : n.toNat ∉ [0x00, 0x01, 0x10, 0x11, 0x20, 0x21]) (i v : Nat) (s : State) :
    hostWrite n i v s = s := by
  obtain ⟨_, h1, h2, h3, h4, h5⟩ := (hostReg_writable n).resolve_left h
  unfold hostWrite
  split <;> first | contradiction | rfl

theorem hexval_isNone (c : Byte) : (hexval c).isNone = true ↔ ¬ IsHex c := by
  revert c; decide +kernel

theorem hasNonHex_iff (buf : Vector Byte Config.bufcap) (n : Nat) : hasNonHex buf n = true ↔ ¬ AllHex buf n := by
  unfold hasNonHex AllHex
  rw [List.any_eq_true]
  simp only [hexval_isNone, List.mem_range, not_forall]
  constructor
  · rintro ⟨m, hm, h⟩; exact ⟨m, hm, h⟩
  · rintro ⟨m, hm, h⟩; exact ⟨m, hm, h⟩

end Sys2Proof.Machine
end

