-- ==== Sys2Proof/Laws/Store.lean ====
section
/-! SUPPORT. Laws of element access and of the block views: a read after a write, and cells of a block. -/

namespace Sys2Proof.Machine

theorem readElem_of_lt {α : Type} {n : Nat} (v : Vector α n) (d : α) {i : Nat} (h : i < n) :
    readElem v i d = v[i] := by simp [readElem, h]

theorem readElem_of_ge {α : Type} {n : Nat} (v : Vector α n) (d : α) {i : Nat} (h : n ≤ i) : readElem v i d = d := by
  simp [readElem, Nat.not_lt.mpr h]

/-- A read after a write: the value written at the place written, and the old value everywhere else. -/
theorem readElem_writeElem {α : Type} {n : Nat} (v : Vector α n) (i j : Nat) (x d : α) :
    readElem (writeElem v i x) j d = if j = i ∧ j < n then x else readElem v j d := by
  by_cases hi : i < n
  · by_cases hj : j < n
    · simp [readElem, writeElem, hi, hj, Vector.getElem_set, eq_comm]
    · simp [readElem, hj]
  · have : ¬(j = i ∧ j < n) := by omega
    simp [writeElem, hi, this]

@[simp] theorem readElem_replicate {α : Type} (n i : Nat) (x d : α) :
    readElem (Vector.replicate n x) i d = if i < n then x else d := by
  unfold readElem; split <;> simp_all

theorem readElem_ofFn {α : Type} {n : Nat} (f : Fin n → α) (i : Nat) (d : α) :
    readElem (Vector.ofFn f) i d = if h : i < n then f ⟨i, h⟩ else d := by
  unfold readElem; split <;> simp

/-- Two arrays are equal when every element reads the same. -/
theorem eq_of_readElem {α : Type} {n : Nat} (v w : Vector α n) (d : α)
    (h : ∀ i, i < n → readElem v i d = readElem w i d) : v = w := by
  apply Vector.ext
  intro i hi
  have := h i hi
  rwa [readElem_of_lt _ _ hi, readElem_of_lt _ _ hi] at this

@[simp] theorem cell_ofCells (f : Fin 4 → Fin 4 → Byte) (r c : Fin 4) : cell (ofCells f) r c = f r c := by
  simp only [cell, ofCells, Vector.getElem_ofFn]
  congr 1 <;> apply Fin.ext <;> simp <;> omega

/-- A block is determined by its sixteen cells. -/
theorem eq_of_cell (a b : Block) (h : ∀ r c : Fin 4, cell a r c = cell b r c) : a = b := by
  apply Vector.ext
  intro n hn
  have h16 : n < 16 := hn
  have := h ⟨n % 4, by omega⟩ ⟨n / 4, by omega⟩
  simp only [cell] at this
  have e : 4 * (n / 4) + n % 4 = n := by omega
  simpa [e] using this

theorem extract_append_high {m n : Nat} (l : BitVec m) (r : BitVec n) : (l ++ r).extractLsb' n m = l := by
  apply BitVec.eq_of_getLsbD_eq
  intro i hi
  simp [BitVec.getLsbD_append, hi]

theorem extract_append_low {m n : Nat} (l : BitVec m) (r : BitVec n) : (l ++ r).extractLsb' 0 n = r := by
  apply BitVec.eq_of_getLsbD_eq
  intro i hi
  simp [BitVec.getLsbD_append, hi]

theorem append_extract {m n : Nat} (b : BitVec (m + n)) : b.extractLsb' n m ++ b.extractLsb' 0 n = b := by
  apply BitVec.eq_of_getLsbD_eq
  intro i hi
  simp

@[simp] theorem leftHalf_append (l r : BitVec 32) : leftHalf (l ++ r) = l := extract_append_high l r

@[simp] theorem rightHalf_append (l r : BitVec 32) : rightHalf (l ++ r) = r := extract_append_low l r

@[simp] theorem halves_append (b : BitVec 64) : leftHalf b ++ rightHalf b = b := append_extract (m := 32) (n := 32) b

/-- What a DES step stores is what the next one reads (R23, R71). -/
@[simp] theorem desBits_desStore (x : BitVec 64) (b : Block) : desBits (desStore x b) = x := by
  have e : desBits (desStore x b) = x.extractLsb' 56 8 ++ x.extractLsb' 48 8 ++ x.extractLsb' 40 8 ++ x.extractLsb' 32 8
      ++ x.extractLsb' 24 8 ++ x.extractLsb' 16 8 ++ x.extractLsb' 8 8 ++ x.extractLsb' 0 8 := by
    simp [desBits, desStore]
  rw [e]
  apply BitVec.eq_of_getLsbD_eq
  intro i hi
  simp only [BitVec.getLsbD_append, BitVec.getLsbD_extractLsb']
  interval_cases i <;> simp

/-- A DES step leaves bytes 8 to 15 (log entry 11). -/
theorem readElem_desStore_ge (x : BitVec 64) (b : Block) {n : Nat} (h : 8 ≤ n) :
    readElem (desStore x b) n 0 = readElem b n 0 := by
  rw [desStore, readElem_ofFn]
  by_cases hn : n < 16
  · rw [dif_pos hn, readElem_of_lt b 0 hn]
    exact if_neg (Nat.not_lt.mpr h)
  · rw [dif_neg hn, readElem_of_ge b 0 (Nat.le_of_not_lt hn)]

end Sys2Proof.Machine
end

