-- ==== Sys2Proof/Laws/Ops.lean ====
section
/-! SUPPORT. What each shared operation can do, said once: decoding a descriptor, fetching it, committing a step and
completing a run, so that no later proof unfolds them. -/

namespace Sys2Proof.Machine

theorem kindOf_mkDesc (k r : Byte) : kindOf (mkDesc k r) = k := extract_append_high k r

theorem roundOf_mkDesc (k r : Byte) : roundOf (mkDesc k r) = r := extract_append_low k r

theorem mkDesc_fields (d : Desc) : mkDesc (kindOf d) (roundOf d) = d := append_extract (m := 8) (n := 8) d

/-- The words of an instruction decode to it (R124). -/
theorem decodeD16_descOf (i : Instr) (h : isStepInstr i = true) : decodeD16 (descOf i) = .ok i := by
  cases i <;> simp_all [isStepInstr, encode, descOf, decodeD16, kindOf_mkDesc, roundOf_mkDesc]

/-- What a descriptor decodes to is a step, and its word is that descriptor (R124). -/
theorem decodeD16_ok {d : Desc} {i : Instr} (h : decodeD16 d = .ok i) : isStepInstr i = true ∧ descOf i = d := by
  have e := mkDesc_fields d
  unfold decodeD16 at h
  split at h <;> try contradiction
  all_goals
    rename_i hk
    have hk' : kindOf d = BitVec.ofNat 8 (kindOf d).toNat := by simp
    rw [hk] at hk'
    rw [hk'] at e
    cases h
    exact ⟨rfl, e⟩

/-- A command is never legal (R94). -/
theorem isStepInstr_of_legal {ses : Session} {i : Instr} (h : legal ses i = true) : isStepInstr i = true := by
  cases i <;> first | rfl | simp [legal] at h

/-- The fetch of a descriptor that decodes (R239). -/
theorem fetchInstr_of_decode {s : State} {i : Instr} (hq : s.qhead.toNat < 56)
    (hd : decodeD16 (readElem s.q s.qhead.toNat 0) = .ok i) : fetchInstr s = .instr i := by
  unfold fetchInstr
  rw [if_pos hq, hd]

theorem fetchInstr_of_reject {s : State} {r : Reject} (hq : s.qhead.toNat < 56)
    (hd : decodeD16 (readElem s.q s.qhead.toNat 0) = .error r) : fetchInstr s = .reserved := by
  unfold fetchInstr
  rw [if_pos hq, hd]

theorem fetchInstr_outside {s : State} (hq : 56 ≤ s.qhead.toNat) : fetchInstr s = .outside := by
  unfold fetchInstr
  rw [if_neg (Nat.not_lt.mpr hq)]

/-- What the fetch can meet (R239). -/
theorem fetchInstr_cases (s : State) :
    (56 ≤ s.qhead.toNat ∧ fetchInstr s = .outside)
      ∨ (s.qhead.toNat < 56 ∧ fetchInstr s = .reserved
          ∧ ∃ r, decodeD16 (readElem s.q s.qhead.toNat 0) = .error r)
      ∨ (s.qhead.toNat < 56 ∧ ∃ i, fetchInstr s = .instr i ∧ isStepInstr i = true
          ∧ descOf i = readElem s.q s.qhead.toNat 0 ∧ decodeD16 (readElem s.q s.qhead.toNat 0) = .ok i) := by
  by_cases hq : s.qhead.toNat < 56
  · cases hd : decodeD16 (readElem s.q s.qhead.toNat 0) with
    | error r => exact .inr (.inl ⟨hq, fetchInstr_of_reject hq hd, r, rfl⟩)
    | ok i =>
      exact .inr (.inr ⟨hq, i, fetchInstr_of_decode hq hd, (decodeD16_ok hd).1, (decodeD16_ok hd).2, rfl⟩)
  · exact .inl ⟨by omega, fetchInstr_outside (by omega)⟩

/-- Every descriptor's meaning is the one atomic step of its data path (R239 to R241). -/
theorem exec_descriptor {i : Instr} (h : isStepInstr i = true) (s : State) :
    exec i s = atomicStep i (dataPath i s.ks s.st) s := by
  cases i <;> first | rfl | simp [isStepInstr, encode] at h

theorem runDescriptor_eq_exec {i : Instr} (h : isStepInstr i = true) (s : State) : runDescriptor i s = exec i s := by
  cases i <;> first | rfl | simp [isStepInstr, encode] at h

/-- `STEP` and the engine execute the queued step alike (R238, R245). -/
theorem runQueued_eq_runFetched (s : State) : runQueued s = runFetched s := by
  unfold runQueued runFetched
  rcases fetchInstr_cases s with ⟨_, h⟩ | ⟨_, h, _⟩ | ⟨_, i, h, hi, _⟩ <;> rw [h]
  exact runDescriptor_eq_exec hi s

/-- What an atomic step can answer (R239, R240). -/
theorem atomicStep_cases (i : Instr) (x : Block) (s : State) :
    (legal (sessionOf s) i = false ∧ atomicStep i x s = .next (raise .badDescriptor s))
      ∨ (legal (sessionOf s) i = true ∧ s.qhead.toNat < 56 ∧ atomicStep i x s = .next (finishStep (descOf i) x s))
      ∨ (legal (sessionOf s) i = true ∧ 56 ≤ s.qhead.toNat ∧ atomicStep i x s = .fault .historyOverrun) := by
  unfold atomicStep
  cases legal (sessionOf s) i
  · exact .inl ⟨rfl, rfl⟩
  · by_cases h : s.qhead.toNat < 56
    · exact .inr (.inl ⟨rfl, h, by simp [Config.hcap, h]⟩)
    · exact .inr (.inr ⟨rfl, by omega, by simp [Config.hcap, h]⟩)

@[simp] theorem outBlock_eq (s : State) : outBlock s = eventBlock s.sAlg s.st := rfl

@[simp] theorem commitStep_st (d : Desc) (x : Block) (s : State) : (commitStep d x s).st = x := rfl
@[simp] theorem commitStep_qhead (d : Desc) (x : Block) (s : State) : (commitStep d x s).qhead = s.qhead + 1 := rfl
@[simp] theorem commitStep_round (d : Desc) (x : Block) (s : State) : (commitStep d x s).round = roundOf d := rfl
@[simp] theorem commitStep_seq (d : Desc) (x : Block) (s : State) : (commitStep d x s).seq = s.seq := rfl
@[simp] theorem commitStep_err (d : Desc) (x : Block) (s : State) : (commitStep d x s).err = s.err := rfl
@[simp] theorem commitStep_fatal (d : Desc) (x : Block) (s : State) : (commitStep d x s).fatal = s.fatal := rfl
@[simp] theorem commitStep_q (d : Desc) (x : Block) (s : State) : (commitStep d x s).q = s.q := rfl
@[simp] theorem commitStep_ks (d : Desc) (x : Block) (s : State) : (commitStep d x s).ks = s.ks := rfl
@[simp] theorem commitStep_qlen (d : Desc) (x : Block) (s : State) : (commitStep d x s).qlen = s.qlen := rfl
@[simp] theorem commitStep_loaded (d : Desc) (x : Block) (s : State) : (commitStep d x s).loaded = s.loaded := rfl
@[simp] theorem commitStep_sAlg (d : Desc) (x : Block) (s : State) : (commitStep d x s).sAlg = s.sAlg := rfl
@[simp] theorem commitStep_hd (d : Desc) (x : Block) (s : State) :
    (commitStep d x s).hd = writeElem s.hd s.qhead.toNat d := rfl
@[simp] theorem commitStep_hs (d : Desc) (x : Block) (s : State) :
    (commitStep d x s).hs = writeElem s.hs s.qhead.toNat x := rfl
@[simp] theorem sessionOf_commitStep (d : Desc) (x : Block) (s : State) :
    sessionOf (commitStep d x s) = sessionOf s := rfl
@[simp] theorem commitStep_evt (d : Desc) (x : Block) (s : State) :
    (commitStep d x s).evt = s.evt ++ [.stepStart d, .stepComplete d (eventBlock s.sAlg x)] := by
  simp [commitStep, outBlock, eventBlock]

theorem commitStep_elsewhere (d : Desc) (x : Block) (s : State) : SameElsewhere s (commitStep d x s) := by
  simp [SameElsewhere, commitStep]

/-- The three ends of a step: the run goes on, the run completes, or the queue drains at another descriptor (R240,
R241). -/
theorem finishStep_cases (d : Desc) (x : Block) (s : State) :
    (s.qhead + 1 ≠ s.qlen ∧ finishStep d x s = commitStep d x s)
      ∨ (s.qhead + 1 = s.qlen ∧ d = terminalDesc (sessionOf s)
          ∧ finishStep d x s = emit (.runComplete (eventBlock s.sAlg x)) (setSeq .complete (commitStep d x s)))
      ∨ (s.qhead + 1 = s.qlen ∧ d ≠ terminalDesc (sessionOf s)
          ∧ finishStep d x s = raise .drainMismatch (commitStep d x s)) := by
  have e : finishStep d x s
      = if s.qhead + 1 = s.qlen then complete d (commitStep d x s) else commitStep d x s := rfl
  have c : complete d (commitStep d x s)
      = if d = terminalDesc (sessionOf s)
        then emit (.runComplete (eventBlock s.sAlg x)) (setSeq .complete (commitStep d x s))
        else raise .drainMismatch (commitStep d x s) := rfl
  by_cases h : s.qhead + 1 = s.qlen
  · by_cases hd : d = terminalDesc (sessionOf s)
    · exact .inr (.inl ⟨h, hd, by rw [e, if_pos h, c, if_pos hd]⟩)
    · exact .inr (.inr ⟨h, hd, by rw [e, if_pos h, c, if_neg hd]⟩)
  · exact .inl ⟨h, by rw [e, if_neg h]⟩

/-- A step that completes is the commit of R240 with the completion of R241 when it drains the queue. -/
theorem finishStep_committed {d : Desc} {s : State} (x : Block) (h : CanComplete d s) :
    Committed d s (finishStep d x s) ∧ (finishStep d x s).st = x := by
  obtain ⟨hq, ht⟩ := h
  have hq1 : (s.qhead + 1).toNat = s.qhead.toNat + 1 := by
    rw [BitVec.toNat_add]; simp; omega
  have hround : roundOf d = d.setWidth 8 := by
    apply BitVec.eq_of_getLsbD_eq
    intro i hi
    simp [roundOf, hi]
  have hHd : ∀ k, k < 56 →
      readElem (writeElem s.hd s.qhead.toNat d) k 0 = if k = s.qhead.toNat then d else readElem s.hd k 0 := by
    intro k hk; rw [readElem_writeElem]; simp [Config.hcap, hk]
  have hHs : ∀ k, k < 56 → readElem (writeElem s.hs s.qhead.toNat x) k zeroBlock
      = if k = s.qhead.toNat then x else readElem s.hs k zeroBlock := by
    intro k hk; rw [readElem_writeElem]; simp [Config.hcap, hk]
  rcases finishStep_cases d x s with ⟨hn, e⟩ | ⟨hy, _, e⟩ | ⟨hy, hd, _⟩
  · rw [e]
    exact ⟨⟨hHd, hHs, hround, hq1, fun _ => ⟨rfl, commitStep_evt d x s⟩, fun hy => absurd hy hn, rfl, rfl,
      commitStep_elsewhere d x s⟩, rfl⟩
  · rw [e]
    exact ⟨⟨hHd, hHs, hround, hq1, fun hn => absurd hy hn, fun _ => ⟨rfl, by simp⟩, rfl, rfl,
      commitStep_elsewhere d x s⟩, rfl⟩
  · exact absurd (ht hy) hd

end Sys2Proof.Machine
end

