-- ==== Sys2Proof/Laws/PerInstr.lean ====
section
/-! SUPPORT. Statements made per instruction: an instruction is well formed exactly when it is a command or some session
can hold its descriptor (R93, R94). -/

namespace Sys2Proof.Laws.WellFormedLegal

open Sys2Proof.Machine

/-- Well-formedness is legality in some session (R93, R94); a command has no operand and is always well formed (R102). -/
def Statement (i : Instr) : Prop :=
  i.wellFormed = true ↔ (∃ c, encode i = .c8 c) ∨ ∃ ses, legal ses i = true

theorem sNr_le (ses : Session) (h : ses.alg = .aes) : sNr ses ≤ 14 := by
  obtain ⟨a, k, m⟩ := ses
  cases h
  cases k <;> simp [sNr, sNk]

theorem ark (r : Byte) : Statement (.ark r) := by
  constructor
  · intro h; exact .inr ⟨⟨.aes, .k256, .enc⟩, by
      simp only [legal, Instr.wellFormed, Bool.and_eq_true, decide_eq_true_eq] at h ⊢
      have e : sNr ⟨.aes, .k256, .enc⟩ = 14 := rfl
      rw [e]
      simpa using h⟩
  · rintro (⟨c, h⟩ | ⟨⟨a, k, m⟩, h⟩)
    · cases h
    · simp only [legal, Instr.wellFormed, Bool.and_eq_true, decide_eq_true_eq] at h ⊢
      have := sNr_le ⟨a, k, m⟩ h.1
      omega

theorem sb (r : Byte) : Statement (.sb r) := by
  constructor
  · intro h; exact .inr ⟨⟨.aes, .k256, .enc⟩, by
      simp only [legal, Instr.wellFormed, Bool.and_eq_true, decide_eq_true_eq] at h ⊢
      have e : sNr ⟨.aes, .k256, .enc⟩ = 14 := rfl
      rw [e]
      simpa using h⟩
  · rintro (⟨c, h⟩ | ⟨⟨a, k, m⟩, h⟩)
    · cases h
    · simp only [legal, Instr.wellFormed, Bool.and_eq_true, decide_eq_true_eq] at h ⊢
      have := sNr_le ⟨a, k, m⟩ h.1.1
      omega

theorem sr (r : Byte) : Statement (.sr r) := by
  constructor
  · intro h; exact .inr ⟨⟨.aes, .k256, .enc⟩, by
      simp only [legal, Instr.wellFormed, Bool.and_eq_true, decide_eq_true_eq] at h ⊢
      have e : sNr ⟨.aes, .k256, .enc⟩ = 14 := rfl
      rw [e]
      simpa using h⟩
  · rintro (⟨c, h⟩ | ⟨⟨a, k, m⟩, h⟩)
    · cases h
    · simp only [legal, Instr.wellFormed, Bool.and_eq_true, decide_eq_true_eq] at h ⊢
      have := sNr_le ⟨a, k, m⟩ h.1.1
      omega

theorem mc (r : Byte) : Statement (.mc r) := by
  constructor
  · intro h; exact .inr ⟨⟨.aes, .k256, .enc⟩, by
      simp only [legal, Instr.wellFormed, Bool.and_eq_true, decide_eq_true_eq] at h ⊢
      have e : sNr ⟨.aes, .k256, .enc⟩ = 14 := rfl
      rw [e]
      simpa using h⟩
  · rintro (⟨c, h⟩ | ⟨⟨a, k, m⟩, h⟩)
    · cases h
    · simp only [legal, Instr.wellFormed, Bool.and_eq_true, decide_eq_true_eq] at h ⊢
      have := sNr_le ⟨a, k, m⟩ h.1.1
      omega

theorem isb (r : Byte) : Statement (.isb r) := by
  constructor
  · intro h; exact .inr ⟨⟨.aes, .k256, .enc⟩, by
      simp only [legal, Instr.wellFormed, Bool.and_eq_true, decide_eq_true_eq] at h ⊢
      have e : sNr ⟨.aes, .k256, .enc⟩ = 14 := rfl
      rw [e]
      simpa using h⟩
  · rintro (⟨c, h⟩ | ⟨⟨a, k, m⟩, h⟩)
    · cases h
    · simp only [legal, Instr.wellFormed, Bool.and_eq_true, decide_eq_true_eq] at h ⊢
      have := sNr_le ⟨a, k, m⟩ h.1
      omega

theorem isr (r : Byte) : Statement (.isr r) := by
  constructor
  · intro h; exact .inr ⟨⟨.aes, .k256, .enc⟩, by
      simp only [legal, Instr.wellFormed, Bool.and_eq_true, decide_eq_true_eq] at h ⊢
      have e : sNr ⟨.aes, .k256, .enc⟩ = 14 := rfl
      rw [e]
      simpa using h⟩
  · rintro (⟨c, h⟩ | ⟨⟨a, k, m⟩, h⟩)
    · cases h
    · simp only [legal, Instr.wellFormed, Bool.and_eq_true, decide_eq_true_eq] at h ⊢
      have := sNr_le ⟨a, k, m⟩ h.1
      omega

theorem imc (r : Byte) : Statement (.imc r) := by
  constructor
  · intro h; exact .inr ⟨⟨.aes, .k256, .enc⟩, by
      simp only [legal, Instr.wellFormed, Bool.and_eq_true, decide_eq_true_eq] at h ⊢
      have e : sNr ⟨.aes, .k256, .enc⟩ = 14 := rfl
      rw [e]
      simpa using h⟩
  · rintro (⟨c, h⟩ | ⟨⟨a, k, m⟩, h⟩)
    · cases h
    · simp only [legal, Instr.wellFormed, Bool.and_eq_true, decide_eq_true_eq] at h ⊢
      have := sNr_le ⟨a, k, m⟩ h.1.1
      omega

theorem desIp (r : Byte) : Statement (.desIp r) := by
  constructor
  · intro h; exact .inr ⟨⟨.des, .k128, .enc⟩, by simpa [legal, Instr.wellFormed] using h⟩
  · rintro (⟨c, h⟩ | ⟨ses, h⟩)
    · cases h
    · simp [legal, Instr.wellFormed] at h ⊢; exact h.2

theorem desRnd (r : Byte) : Statement (.desRnd r) := by
  constructor
  · intro h; exact .inr ⟨⟨.des, .k128, .enc⟩, by simpa [legal, Instr.wellFormed] using h⟩
  · rintro (⟨c, h⟩ | ⟨ses, h⟩)
    · cases h
    · simp [legal, Instr.wellFormed] at h ⊢; exact h.2

theorem desFp (r : Byte) : Statement (.desFp r) := by
  constructor
  · intro h; exact .inr ⟨⟨.des, .k128, .enc⟩, by simpa [legal, Instr.wellFormed] using h⟩
  · rintro (⟨c, h⟩ | ⟨ses, h⟩)
    · cases h
    · simp [legal, Instr.wellFormed] at h ⊢; exact h.2

theorem init : Statement .init := ⟨fun _ => .inl ⟨_, rfl⟩, fun _ => rfl⟩

theorem run : Statement .run := ⟨fun _ => .inl ⟨_, rfl⟩, fun _ => rfl⟩

theorem pause : Statement .pause := ⟨fun _ => .inl ⟨_, rfl⟩, fun _ => rfl⟩

theorem resume : Statement .resume := ⟨fun _ => .inl ⟨_, rfl⟩, fun _ => rfl⟩

theorem step : Statement .step := ⟨fun _ => .inl ⟨_, rfl⟩, fun _ => rfl⟩

theorem reset : Statement .reset := ⟨fun _ => .inl ⟨_, rfl⟩, fun _ => rfl⟩

end Sys2Proof.Laws.WellFormedLegal
end

