-- ==== Sys2Proof/Laws/Step.lean ====
section
/-! SUPPORT. What one transition can do: the inversion of each command and of `step`, from which every invariant and
frame follows without unfolding them again. -/

namespace Sys2Proof.Machine

/-- `INIT` either raises one recoverable error or constructs the session (R234 to R237). -/
theorem execInit_cases (s : State) :
    (∃ e, errorKind e ≠ .internalInvariant ∧ exec .init s = .next (raise e s))
      ∨ (∃ ses, checkConfig s.config = .ok ses ∧ checkInputs ses s = none
          ∧ exec .init s = .next (construct ses s)) := by
  change (∃ e, _ ∧ execInit s = _) ∨ ∃ ses, _ ∧ _ ∧ execInit s = _
  unfold execInit
  cases hc : checkConfig s.config with
  | error e =>
    refine .inl ⟨e, ?_, rfl⟩
    unfold checkConfig at hc
    split at hc
    · cases hc; decide
    · split at hc
      · cases hc; decide
      · split at hc <;> cases hc
        decide
    · split at hc <;> cases hc
      decide
  | ok ses =>
    cases hi : checkInputs ses s with
    | none => exact .inr ⟨ses, rfl, hi, by simp [hi]⟩
    | some e =>
      refine .inl ⟨e, ?_, by simp [hi]⟩
      unfold checkInputs at hi
      dsimp only at hi
      split at hi <;> try (cases hi; decide)
      split at hi <;> try (cases hi; decide)
      split at hi <;> try (cases hi; decide)
      split at hi <;> cases hi
      decide

/-- An enabled step: the descriptor at `QHEAD` is illegal and raises, or it is legal and is finished, or `QHEAD` names
no entry (R239, R240). -/
theorem runFetched_cases (s : State) :
    runFetched s = .next (raise .badDescriptor s)
      ∨ (∃ i, decodeD16 (readElem s.q s.qhead.toNat 0) = .ok i ∧ legal (sessionOf s) i = true ∧ s.qhead.toNat < 56
          ∧ runFetched s = .next (finishStep (descOf i) (dataPath i s.ks s.st) s))
      ∨ (56 ≤ s.qhead.toNat ∧ runFetched s = .fault .queueOverrun) := by
  unfold runFetched
  rcases fetchInstr_cases s with ⟨hq, h⟩ | ⟨_, h, _⟩ | ⟨hq, i, h, hi, _, hd⟩ <;> rw [h]
  · exact .inr (.inr ⟨hq, rfl⟩)
  · exact .inl rfl
  · simp only [exec_descriptor hi]
    rcases atomicStep_cases i (dataPath i s.ks s.st) s with ⟨_, e⟩ | ⟨hl, _, e⟩ | ⟨_, hn, _⟩
    · exact .inl e
    · exact .inr (.inl ⟨i, hd, hl, hq, e⟩)
    · omega

/-- What one transition can leave, `s` being the state once the turn is taken from the script. -/
inductive Transition (s : State) : State → Prop where
  /-- Nothing: an idle engine turn, a command with no effect, an ignored write. -/
  | none : Transition s s
  /-- One legal step, by the engine (R238) or by `STEP` (R245). -/
  | steps (i : Instr) (held : Bool)
      (hd : decodeD16 (readElem s.q s.qhead.toNat 0) = .ok i) (hl : legal (sessionOf s) i = true)
      (hq : s.qhead.toNat < 56) (he : held = false → s.seq = .running)
      (hh : held = true → s.loaded = true ∧ s.qhead < s.qlen) (hf : s.fatal = false) :
      Transition s (let t := finishStep (descOf i) (dataPath i s.ks s.st) s
        if held then holdAfterStep t else t)
  /-- A step met an illegal descriptor (R239). -/
  | illegal (hp : s.seq = .running ∨ (s.loaded = true ∧ s.qhead < s.qlen)) (hf : s.fatal = false)
      (hr : runFetched s = .next (raise .badDescriptor s)) : Transition s (raise .badDescriptor s)
  /-- A rejected `INIT` (R235, R236). -/
  | rejected (e : ErrorCode) (hk : errorKind e ≠ .internalInvariant) : Transition s (raise e s)
  /-- An accepted `INIT` (R237). -/
  | accepted (ses : Session) (hc : checkConfig s.config = .ok ses) (hi : checkInputs ses s = .none) :
      Transition s (construct ses s)
  /-- `RUN` (R242). -/
  | run (h : s.seq = .ready ∧ s.loaded = true ∧ s.fatal = false) : Transition s (setSeq .running s)
  /-- `PAUSE` (R243). -/
  | pause (h : s.seq = .running ∧ s.fatal = false) : Transition s (setSeq .paused s)
  /-- `RESUME` (R244). -/
  | resume (h : s.seq = .paused ∧ s.fatal = false) : Transition s (setSeq .running s)
  /-- `RESET` (R246). -/
  | reset : Transition s (sessionReset s)
  /-- A register write other than `CMD` (R270). -/
  | wrote (n : Byte) (i v : Nat) : Transition s (hostWrite n i v s)
  /-- A register read (R275). -/
  | got (v : BitVec 16) : Transition s (receive v s)

theorem engineTurn_cases {s t : State} (h : engineTurn s = .next t) : Transition s t := by
  unfold engineTurn at h
  split at h
  · rename_i he
    simp only [engineEnabled, Bool.and_eq_true, decide_eq_true_eq, Bool.not_eq_true'] at he
    rcases runFetched_cases s with e | ⟨i, hd, hl, hq, e⟩ | ⟨_, e⟩
    · rw [e] at h; cases h; exact .illegal (.inl he.1) he.2 e
    · rw [e] at h; cases h; exact .steps i false hd hl hq (fun _ => he.1) (by simp) he.2
    · rw [e] at h; cases h
  · cases h; exact .none

theorem execStep_cases {s t : State} (h : execStep s = .next t) : Transition s t := by
  unfold execStep at h
  split at h
  · rename_i hc
    rw [runQueued_eq_runFetched] at h
    rcases runFetched_cases s with e | ⟨i, hd, hl, hq, e⟩ | ⟨_, e⟩
    · rw [e] at h; cases h
      have : holdAfterStep (raise .badDescriptor s) = raise .badDescriptor s := by
        simp [holdAfterStep, errorKind]
      rw [this]; exact .illegal (.inr ⟨hc.1, hc.2.2⟩) hc.2.1 e
    · rw [e] at h; cases h; exact .steps i true hd hl hq (by simp) (fun _ => ⟨hc.1, hc.2.2⟩) hc.2.1
    · rw [e] at h; cases h
  · cases h; exact .none

theorem commandWrite_cases {v : Nat} {s t : State} (h : commandWrite v s = .next t) : Transition s t := by
  unfold commandWrite decodeC8 at h
  split at h
  · rename_i i hd
    split at hd <;> cases hd
    · rcases execInit_cases s with ⟨e, hk, he⟩ | ⟨ses, hc, hi, he⟩
      · rw [he] at h; cases h; exact .rejected e hk
      · rw [he] at h; cases h; exact .accepted ses hc hi
    · change execRun s = _ at h; unfold execRun at h; cases h; split
      · exact .run ‹_›
      · exact .none
    · change execPause s = _ at h; unfold execPause at h; cases h; split
      · exact .pause ‹_›
      · exact .none
    · change execResume s = _ at h; unfold execResume at h; cases h; split
      · exact .resume ‹_›
      · exact .none
    · exact execStep_cases h
    · change execReset s = _ at h; unfold execReset at h; cases h; exact .reset
  · cases h; exact .none

/-- Every transition is one of the list (R13). -/
theorem step_cases {s t : State} (h : step s = .next t) : Transition (setScript s.script.tail s) t := by
  unfold step at h
  split at h
  · rename_i hs
    have e : setScript s.script.tail s = s := by cases s; simp only at hs; subst hs; rfl
    rw [e]; exact engineTurn_cases h
  · rename_i ts hs; rw [hs]; exact engineTurn_cases h
  · rename_i a ts hs
    rw [hs]
    unfold hostTurn at h
    split at h
    · split at h
      · exact commandWrite_cases h
      · cases h; exact .wrote _ _ _
    · cases h; exact .got _

end Sys2Proof.Machine
end

