-- ==== Sys2Proof/Tests/Slice0.lean ====
section
/-! SUPPORT. Tests of the model on values of `95_test_vectors.md` (named V<n> there), and for every statement with
hypotheses a concrete state and operands that meet them (`witness_…`). -/

namespace Sys2Proof.Tests

open Sys2Proof Sys2Proof.Machine

/-! ## Helpers -/

/-- The state of an answer that is a next state; reset otherwise. -/
def nextOf (a : Answer) : State :=
  match a with
  | .next t => t
  | .fault _ => State.reset
  | .refused _ => State.reset

/-- The answer is a next state. -/
def isNext (a : Answer) : Bool :=
  match a with
  | .next _ => true
  | .fault _ => false
  | .refused _ => false

theorem eq_next_of_isNext {a : Answer} (h : isNext a = true) : a = .next (nextOf a) := by
  cases a <;> first | rfl | cases h

/-- The bytes 00, 01, …, 0f. -/
def counting : Block := Vector.ofFn fun n : Fin 16 => BitVec.ofNat 8 n.val

/-- A running AES session of a key size with `head` of `len` steps done and the block `b`. -/
def aesAt (k : KeySize) (b : Block) (head len : BitVec 8) : State :=
  { State.reset with st := b, sKeysize := k, qhead := head, qlen := len, seq := .running, loaded := true }

/-- A running DES session with `head` of 18 steps done and the block `b`. -/
def desAt (b : Block) (head : BitVec 8) : State :=
  { State.reset with st := b, sAlg := .des, qhead := head, qlen := 18, seq := .running, loaded := true }

/-- An 8-byte block. -/
def desBlock (x : BitVec 64) : Block := desStore x zeroBlock

/-- The host has written `CONFIG`, a text and a key. -/
def withInputs (config : BitVec 8) (text key : String) : State :=
  { State.reset with
    config := config
    textLen := BitVec.ofNat 8 text.length
    keyLen := BitVec.ofNat 8 key.length
    textBuf := Vector.ofFn fun n : Fin 64 => (charCodes text).getD n.val 0
    keyBuf := Vector.ofFn fun n : Fin 64 => (charCodes key).getD n.val 0 }

/-- The DES known vector's inputs (R252). -/
def desInput : State := withInputs 0x01 "0123456789ABCDEF" "133457799BBCDFF1"

/-- The AES-128 known vector's inputs (R252). -/
def aesInput : State := withInputs 0x00 "00112233445566778899aabbccddeeff" "000102030405060708090a0b0c0d0e0f"

/-- A DES session just built from zero inputs. -/
def desReady : State := construct ⟨.des, .k128, .enc⟩ State.reset

/-- The same session paused before any step. -/
def desPaused : State := setSeq .paused desReady

/-- The same session running. -/
def desRunning : State := setSeq .running desReady

/-- The same session run to its end by eighteen `STEP` commands. -/
def desDone : State := nextOf (runSteps 18 (setScript (List.replicate 18 (cmd 0x05)) desReady))

/-- The DES inputs over a running session. -/
def desOverRunning : State := { desInput with seq := .running, loaded := true, qlen := 18 }

/-- The DES inputs over a failed session. -/
def desOverFatal : State := { desInput with seq := .running, loaded := true, fatal := true }

/-- A `CONFIG` and nothing else. -/
def withConfig (c : BitVec 8) : State := { State.reset with config := c }

/-- A text of 31 characters. -/
def shortText : State := { aesInput with textLen := 31 }

/-- A text character that is not hexadecimal, and a short key. -/
def badText : State := withInputs 0x00 "00112233445566778899aabbccddeefg" "00"

/-- A key of 32 characters where `CONFIG` asks for 48. -/
def shortKey : State := { aesInput with config := 0x04 }

/-- A key character that is not hexadecimal. -/
def badKey : State := withInputs 0x01 "0123456789ABCDEF" "133457799BBCDFFZ"

/-! ## Well-formedness: a term that each check refuses -/

theorem test_wellFormed_refuses :
    [Instr.ark 15, .sb 0, .sb 15, .sr 0, .sr 15, .mc 0, .mc 14, .isb 14, .isr 14, .imc 0, .imc 14, .desIp 1, .desRnd 16,
      .desFp 1].all (fun i => !i.wellFormed) = true := by decide

theorem test_wellFormed_accepts :
    [Instr.ark 14, .sb 1, .sr 14, .mc 13, .isb 0, .isr 13, .imc 1, .desIp 0, .desRnd 15, .desFp 0, .init, .run, .pause,
      .resume, .step, .reset].all Instr.wellFormed = true := by decide

/-! ## Decoding: words written out from the tables of R93 and R100 -/

theorem test_decode_ark : decodeD16 0b0000000100001010 = .ok (.ark 10) := rfl
theorem test_decode_sb : decodeD16 0b0000001000000011 = .ok (.sb 3) := rfl
theorem test_decode_sr : decodeD16 0b0000001100001110 = .ok (.sr 14) := rfl
theorem test_decode_mc : decodeD16 0b0000010000001001 = .ok (.mc 9) := rfl
theorem test_decode_isb : decodeD16 0b0000010100000000 = .ok (.isb 0) := rfl
theorem test_decode_isr : decodeD16 0b0000011000001101 = .ok (.isr 13) := rfl
theorem test_decode_imc : decodeD16 0b0000011100000001 = .ok (.imc 1) := rfl
theorem test_decode_desIp : decodeD16 0b0000100000000000 = .ok (.desIp 0) := rfl
theorem test_decode_desRnd : decodeD16 0b0000100100001111 = .ok (.desRnd 15) := rfl
theorem test_decode_desFp : decodeD16 0b0000101000000000 = .ok (.desFp 0) := rfl
theorem test_decode_init : decodeC8 0b00000001 = .ok .init := rfl
theorem test_decode_run : decodeC8 0b00000010 = .ok .run := rfl
theorem test_decode_pause : decodeC8 0b00000011 = .ok .pause := rfl
theorem test_decode_resume : decodeC8 0b00000100 = .ok .resume := rfl
theorem test_decode_step : decodeC8 0b00000101 = .ok .step := rfl
theorem test_decode_reset : decodeC8 0b00000110 = .ok .reset := rfl

/-- R95, R101: reserved encodings are refused by name. -/
theorem test_decode_reserved :
    decodeD16 0x0003 = .error (.reservedKind 0) ∧ decodeD16 0x0B00 = .error (.reservedKind 0x0B)
      ∧ decodeD16 0xFFFF = .error (.reservedKind 0xFF) ∧ decodeC8 0x00 = .error (.reservedCommand 0)
      ∧ decodeC8 0x07 = .error (.reservedCommand 7) := ⟨rfl, rfl, rfl, rfl, rfl⟩

theorem test_decodeTableWord :
    decodeTableWord 16 0x0100 = some (.ark 0) ∧ decodeTableWord 8 0x05 = some .step ∧ decodeTableWord 16 0 = none := by
  decide

/-- The word placed for the next fetch is the instruction the next step runs. -/
theorem test_withFetchWord_descriptor :
    step (State.reset.withFetchWord 16 0x0900) = exec (.desRnd 0) (State.reset.withFetchWord 16 0x0900) := rfl

theorem test_withFetchWord_command :
    step (State.reset.withFetchWord 8 0x06) = exec .reset (setScript [] (State.reset.withFetchWord 8 0x06)) := rfl

/-! ## Legality at the edges of the ranges (V29) -/

theorem test_legal_edges :
    legal ⟨.aes, .k128, .enc⟩ (.ark 10) = true ∧ legal ⟨.aes, .k128, .enc⟩ (.ark 11) = false
      ∧ legal ⟨.aes, .k128, .enc⟩ (.mc 9) = true ∧ legal ⟨.aes, .k128, .enc⟩ (.mc 10) = false
      ∧ legal ⟨.aes, .k256, .enc⟩ (.isr 13) = true ∧ legal ⟨.aes, .k128, .enc⟩ (.imc 0) = false
      ∧ legal ⟨.des, .k128, .enc⟩ (.desRnd 15) = true ∧ legal ⟨.des, .k128, .enc⟩ (.desRnd 16) = false
      ∧ legal ⟨.des, .k128, .enc⟩ (.ark 0) = false ∧ legal ⟨.aes, .k128, .enc⟩ (.desIp 0) = false := by decide

/-! ## The steps one at a time (V26, V27) -/

/-- `ARK` with a round key of `ff` bytes complements. -/
theorem test_ark :
    readElem (nextOf (exec (.ark 1) { aesAt .k128 counting 0 40 with ks := Vector.replicate 240 0xff })).st 3 0 = 0xfc := by
  decide

/-- `SB` of the counting block begins `637c777b`. -/
theorem test_sb :
    (List.range 4).map (readElem (nextOf (exec (.sb 1) (aesAt .k128 counting 0 40))).st · 0) = [0x63, 0x7c, 0x77, 0x7b] := by
  decide +kernel

/-- `SR` of the counting block is `00050a0f 04090e03 080d0207 0c01060b`. -/
theorem test_sr :
    (nextOf (exec (.sr 1) (aesAt .k128 counting 0 40))).st.toList
      = [0x00, 0x05, 0x0a, 0x0f, 0x04, 0x09, 0x0e, 0x03, 0x08, 0x0d, 0x02, 0x07, 0x0c, 0x01, 0x06, 0x0b] := by decide

/-- `MC` of the column `db 13 53 45` is `8e 4d a1 bc`. -/
theorem test_mc :
    (List.range 4).map (readElem (nextOf (exec (.mc 1) (aesAt .k128 (loadBlock [0xdb, 0x13, 0x53, 0x45]) 0 40))).st · 0)
      = [0x8e, 0x4d, 0xa1, 0xbc] := by decide +kernel

/-- `ISB` of zeros is `52` bytes. -/
theorem test_isb : (nextOf (exec (.isb 0) (aesAt .k128 zeroBlock 0 40))).st = Vector.replicate 16 0x52 := by decide +kernel

/-- `ISR` of the counting block is `000d0a07 04010e0b 0805020f 0c090603`. -/
theorem test_isr :
    (nextOf (exec (.isr 0) (aesAt .k128 counting 0 40))).st.toList
      = [0x00, 0x0d, 0x0a, 0x07, 0x04, 0x01, 0x0e, 0x0b, 0x08, 0x05, 0x02, 0x0f, 0x0c, 0x09, 0x06, 0x03] := by decide

/-- `IMC` of the column `01 00 00 00` is the column `0e 09 0d 0b`. -/
theorem test_imc :
    (List.range 4).map (readElem (nextOf (exec (.imc 1) (aesAt .k128 (loadBlock [0x01]) 0 40))).st · 0)
      = [0x0e, 0x09, 0x0d, 0x0b] := by decide +kernel

/-- `DES_IP` of `0123456789ABCDEF`. -/
theorem test_desIp :
    desBits (nextOf (exec (.desIp 0) (desAt (desBlock 0x0123456789ABCDEF) 0))).st = 0xCC00CCFFF0AAF0AA := by decide +kernel

/-- `DES_RND 0` of `0123456789ABCDEF` with a zero key. -/
theorem test_desRnd :
    desBits (nextOf (exec (.desRnd 0) (desAt (desBlock 0x0123456789ABCDEF) 1))).st = 0x89ABCDEF1200F0A1 := by decide +kernel

/-- `DES_FP` of `43423234 0A4CD995` swaps before it permutes. -/
theorem test_desFp :
    desBits (nextOf (exec (.desFp 0) (desAt (desBlock 0x434232340A4CD995) 17))).st = 0x85E813540F0AB405 := by decide +kernel

/-- The last step of a run completes it and emits three records (R240, R241). -/
theorem test_desFp_completes :
    (nextOf (exec (.desFp 0) (desAt zeroBlock 17))).seq = .complete
      ∧ (nextOf (exec (.desFp 0) (desAt zeroBlock 17))).evt
        = [.stepStart 0x0A00, .stepComplete 0x0A00 (List.replicate 8 0), .runComplete (List.replicate 8 0)] := by decide +kernel

/-- A kind of the other algorithm raises `BAD_DESCRIPTOR` (V29). -/
theorem test_ark_wrong_session :
    (nextOf (exec (.ark 0) (desAt zeroBlock 0))).err = 0x31 ∧ (nextOf (exec (.ark 0) (desAt zeroBlock 0))).fatal = true := by
  decide

/-! ## The commands (V32, V33) -/

/-- `CONFIG` 0x2E fails three checks and reports `BAD_ALG` only. -/
theorem test_init_priority : (nextOf (exec .init { State.reset with config := 0x2E })).err = 0x21 := by decide

/-- `CONFIG` 0x0D is DES with its reserved key size ignored: accepted, `STATUS` 0x24, eighteen steps. -/
theorem test_init_des :
    let t := nextOf (exec .init (withInputs 0x0D "0123456789ABCDEF" "133457799BBCDFF1"))
    statusReg t = 0x24 ∧ t.qlen = 18 ∧ t.err = 0 := by decide +kernel

theorem test_run : (nextOf (exec .run desReady)).seq = .running ∧ (nextOf (exec .run State.reset)).seq = .ready := by decide

theorem test_pause : (nextOf (exec .pause desRunning)).seq = .paused ∧ (nextOf (exec .pause desReady)).seq = .ready := by
  decide

theorem test_resume : (nextOf (exec .resume desPaused)).seq = .running ∧ (nextOf (exec .resume desReady)).seq = .ready := by
  decide

/-- From loaded `READY`, `STEP` executes `DES_IP` and leaves `PAUSED`. -/
theorem test_step :
    let t := nextOf (exec .step desReady)
    t.seq = .paused ∧ t.qhead = 1 ∧ readElem t.hd 0 0 = 0x0800 := by decide +kernel

theorem test_reset : (nextOf (exec .reset desRunning)).loaded = false ∧ (nextOf (exec .reset desRunning)).qlen = 0 := by
  decide

/-! ## The host interface (V34, V35, V31) -/

theorem test_reads_after_reset :
    hostRead 0x03 0 0 State.reset = 10 ∧ hostRead 0x04 0 0 State.reset = 32 ∧ hostRead 0x31 31 0 State.reset = 0x30
      ∧ hostRead 0x31 32 0 State.reset = 0 ∧ hostRead 0xFF 0 0 State.reset = 0 := by decide

theorem test_config_drops_high_bits : (hostWrite 0x01 0 0xC4 State.reset).config = 0x04 := by decide

theorem test_binText : binText [0x85, 0xE8] = charCodes "10000101 11101000" := by decide

theorem test_eventBytes : eventBytes (.error .drainMismatch) = [0x04, 0x32] := by decide

theorem test_labels :
    labelText (.sb 3) = some "Round 3: SubBytes" ∧ labelText (.desRnd 0) = some "Round 1: Feistel" := by decide

/-! ## Primitives and schedules (V20, V21, V23, V25) -/

theorem test_gfMultiply : gfMultiply 0x57 0x83 = 0xC1 ∧ gfMultiply 0xFF 0xFF = 0x13 := by decide

theorem test_permute : permute 5 (0b1011 : BitVec 4) [1, 1, 4, 4, 2] = 0b11110 := by decide

theorem test_leftRotate : leftRotate (0b1110000 : BitVec 7) 2 = 0b1000011 := by decide

/-- The fourth recurrence word of the AES-128 key 00, 01, …, 0f. -/
theorem test_aesSchedule :
    nextWord 4 (keyWords counting.toList 4) = #v[0xd6, 0xaa, 0x74, 0xfd] := by decide +kernel

theorem test_desSchedule : (desSchedule 0x133457799BBCDFF1).getD 0 0 = 0x1B02EFFC7072 := by decide +kernel

/-! ## Witnesses: states and operands that meet the hypotheses of the statements -/

theorem inv_reset : Inv State.reset := by and_intros <;> decide +kernel

theorem inv_desReady : Inv desReady := by and_intros <;> decide +kernel

theorem inv_desPaused : Inv desPaused := by and_intros <;> decide +kernel

theorem inv_desRunning : Inv desRunning := by and_intros <;> decide +kernel

theorem inv_desDone : Inv desDone := by and_intros <;> decide +kernel

/-- `IllegalFetchRaises`: an empty queue's word, and a word of the other algorithm, each met by the engine and by
`STEP`. -/
theorem witness_IllegalFetchRaises :
    (∀ i, decodeD16 (readElem (aesAt .k128 zeroBlock 0 40).q 0 0) = .ok i →
        legal (sessionOf (aesAt .k128 zeroBlock 0 40)) i = false)
      ∧ (∀ i, decodeD16 (readElem ({ aesAt .k128 zeroBlock 0 40 with q := Vector.replicate 56 0x0800 } : State).q 0 0) = .ok i →
        legal (sessionOf (aesAt .k128 zeroBlock 0 40)) i = false)
      ∧ (aesAt .k128 zeroBlock 0 40).qhead.toNat < 56 ∧ (aesAt .k128 zeroBlock 0 40).seq = .running
      ∧ (aesAt .k128 zeroBlock 0 40).fatal = false ∧ (aesAt .k128 zeroBlock 0 40).loaded = true
      ∧ (aesAt .k128 zeroBlock 0 40).qhead < (aesAt .k128 zeroBlock 0 40).qlen
      ∧ (0x0B ≤ (kindOf 0x0B00).toNat) ∧ (kindOf 0x00FF).toNat = 0 := by
  refine ⟨fun i h => ?_, fun i h => ?_, by decide, rfl, rfl, rfl, by decide, by decide, by decide⟩
  · have e : decodeD16 (readElem (aesAt .k128 zeroBlock 0 40).q 0 0) = .error (.reservedKind 0) := rfl
    rw [e] at h; cases h
  · have e : decodeD16 (readElem ({ aesAt .k128 zeroBlock 0 40 with q := Vector.replicate 56 0x0800 } : State).q 0 0)
        = .ok (.desIp 0) := rfl
    rw [e] at h; cases h; rfl

/-- `ReservedCommandsDoNothing`, at the edges of the range of the low byte. -/
theorem witness_ReservedCommandsDoNothing : 256 % 256 = 0 ∧ 7 ≤ 7 % 256 ∧ 7 ≤ 511 % 256 := by decide

/-- `StepRunsDecodedInstruction` and `EngineTransition`: a running session with a descriptor at `Q[QHEAD]`, and scripts
that begin with each kind of turn. -/
theorem witness_StepRunsDecodedInstruction :
    desRunning.script = [] ∧ desRunning.seq = .running ∧ desRunning.fatal = false ∧ desRunning.qhead.toNat < 56
      ∧ decodeD16 (readElem desRunning.q desRunning.qhead.toNat 0) = .ok (.desIp 0)
      ∧ (setScript [.engine] desRunning).script = .engine :: []
      ∧ (setScript [cmd 0x06] desRunning).script = .host (.write 0x00 0 0 6) :: []
      ∧ decodeC8 (BitVec.ofNat 8 6) = .ok .reset ∧ (setScript [wr 0x01 0 5] desRunning).script = .host (.write 0x01 0 0 5) :: []
      ∧ (setScript [rd 0x02 0 0] desRunning).script = .host (.read 0x02 0 0) :: [] :=
  ⟨rfl, rfl, rfl, by decide, rfl, rfl, rfl, rfl, rfl, rfl⟩

theorem witness_EngineTransition :
    Inv desRunning ∧ ¬(State.reset.seq = .running ∧ State.reset.fatal = false) ∧ desRunning.seq = .running ∧ desRunning.fatal = false
      ∧ desRunning.qhead.toNat < 56 ∧ decodeD16 (readElem desRunning.q desRunning.qhead.toNat 0) = .ok (.desIp 0) :=
  ⟨inv_desRunning, by decide, rfl, rfl, by decide, rfl⟩

/-- The ten step statements: both ends of each legal range can complete, and the value past an end is not legal. -/
theorem witness_AddRoundKeyStep :
    let s := aesAt .k128 zeroBlock 0 40
    (s.sAlg = .aes ∧ (0 : Byte).toNat ≤ sNr (sessionOf s) ∧ CanComplete 0x0100 s)
      ∧ ((10 : Byte).toNat ≤ sNr (sessionOf s) ∧ CanComplete 0x010A (aesAt .k128 zeroBlock 39 40))
      ∧ ¬(11 : Byte).toNat ≤ sNr (sessionOf s) := by decide

theorem witness_SubBytesStep :
    let s := aesAt .k192 zeroBlock 1 48
    (s.sAlg = .aes ∧ 1 ≤ (1 : Byte).toNat ∧ (1 : Byte).toNat ≤ sNr (sessionOf s) ∧ CanComplete 0x0201 s)
      ∧ ((12 : Byte).toNat ≤ sNr (sessionOf s) ∧ CanComplete 0x020C s)
      ∧ ¬1 ≤ (0 : Byte).toNat ∧ ¬(13 : Byte).toNat ≤ sNr (sessionOf s) := by decide

theorem witness_ShiftRowsStep :
    let s := aesAt .k256 zeroBlock 2 56
    (s.sAlg = .aes ∧ 1 ≤ (1 : Byte).toNat ∧ (14 : Byte).toNat ≤ sNr (sessionOf s) ∧ CanComplete 0x0301 s)
      ∧ CanComplete 0x030E s ∧ ¬1 ≤ (0 : Byte).toNat ∧ ¬(15 : Byte).toNat ≤ sNr (sessionOf s) := by decide

theorem witness_MixColumnsStep :
    let s := aesAt .k128 zeroBlock 3 40
    (s.sAlg = .aes ∧ 1 ≤ (1 : Byte).toNat ∧ (9 : Byte).toNat ≤ sNr (sessionOf s) - 1 ∧ CanComplete 0x0401 s)
      ∧ CanComplete 0x0409 s ∧ ¬1 ≤ (0 : Byte).toNat ∧ ¬(10 : Byte).toNat ≤ sNr (sessionOf s) - 1 := by decide

theorem witness_InvSubBytesStep :
    let s := aesAt .k128 zeroBlock 2 40
    (s.sAlg = .aes ∧ (0 : Byte).toNat ≤ sNr (sessionOf s) - 1 ∧ (9 : Byte).toNat ≤ sNr (sessionOf s) - 1
        ∧ CanComplete 0x0500 s)
      ∧ CanComplete 0x0509 s ∧ ¬(10 : Byte).toNat ≤ sNr (sessionOf s) - 1 := by decide

theorem witness_InvShiftRowsStep :
    let s := aesAt .k128 zeroBlock 1 40
    (s.sAlg = .aes ∧ (0 : Byte).toNat ≤ sNr (sessionOf s) - 1 ∧ (9 : Byte).toNat ≤ sNr (sessionOf s) - 1
        ∧ CanComplete 0x0600 s)
      ∧ CanComplete 0x0609 s ∧ ¬(10 : Byte).toNat ≤ sNr (sessionOf s) - 1 := by decide

theorem witness_InvMixColumnsStep :
    let s := aesAt .k128 zeroBlock 4 40
    (s.sAlg = .aes ∧ 1 ≤ (1 : Byte).toNat ∧ (9 : Byte).toNat ≤ sNr (sessionOf s) - 1 ∧ CanComplete 0x0701 s)
      ∧ CanComplete 0x0709 s ∧ ¬1 ≤ (0 : Byte).toNat ∧ ¬(10 : Byte).toNat ≤ sNr (sessionOf s) - 1 := by decide

theorem witness_DesInitialStep :
    let s := desAt zeroBlock 0
    (s.sAlg = .des ∧ (0 : Byte).toNat = 0 ∧ CanComplete 0x0800 s) ∧ ¬(1 : Byte).toNat = 0
      ∧ readElem s.st 8 0 = 0 ∧ readElem s.st 15 0 = 0 := by decide

theorem witness_DesRoundStep :
    let s := desAt zeroBlock 1
    (s.sAlg = .des ∧ (0 : Byte).toNat ≤ 15 ∧ CanComplete 0x0900 s) ∧ ((15 : Byte).toNat ≤ 15 ∧ CanComplete 0x090F s)
      ∧ ¬(16 : Byte).toNat ≤ 15 ∧ readElem s.st 8 0 = 0 := by decide

theorem witness_DesFinalStep :
    let s := desAt zeroBlock 17
    (s.sAlg = .des ∧ (0 : Byte).toNat = 0 ∧ CanComplete 0x0A00 s ∧ s.qhead + 1 = s.qlen) ∧ ¬(1 : Byte).toNat = 0
      ∧ readElem s.st 8 0 = 0 := by decide

/-- `DescriptorFrame`: a step that commits, one that raises, and a DES step. -/
theorem witness_DescriptorFrame :
    isStepInstr (.sb 1) = true ∧ isNext (exec (.sb 1) (aesAt .k128 zeroBlock 0 40)) = true
      ∧ isNext (exec (.sb 0) (aesAt .k128 zeroBlock 0 40)) = true
      ∧ isStepInstr (.desRnd 3) = true ∧ isNext (exec (.desRnd 3) (desAt zeroBlock 4)) = true := by decide

/-- `DescriptorSelfContained`: one step at two places of two sessions of different key size and mode. -/
theorem witness_DescriptorSelfContained :
    let s := aesAt .k128 zeroBlock 1 40
    let u := { aesAt .k256 zeroBlock 55 56 with sMode := .dec }
    s.st = u.st ∧ s.ks = u.ks ∧ legal (sessionOf s) (.ark 1) = true ∧ legal (sessionOf u) (.ark 1) = true
      ∧ s.qhead.toNat < 56 ∧ u.qhead.toNat < 56 := by decide +kernel

/-- `Completion`: a drained queue with the terminal descriptor and with another, for AES in both modes and for DES. -/
theorem witness_Completion :
    let s := aesAt .k128 zeroBlock 39 40
    (legal (sessionOf s) (.ark 10) = true ∧ s.qhead.toNat < 56 ∧ s.qhead + 1 = s.qlen ∧ descOf (.ark 10) = 0x010A)
      ∧ (legal (sessionOf s) (.ark 9) = true ∧ descOf (.ark 9) ≠ 0x010A)
      ∧ (legal ⟨.aes, .k128, .dec⟩ (.ark 0) = true ∧ descOf (.ark 0) = 0x0100)
      ∧ (legal (sessionOf (desAt zeroBlock 17)) (.desFp 0) = true ∧ (desAt zeroBlock 17).qhead + 1 = 18)
      ∧ legal (sessionOf (desAt zeroBlock 17)) (.desIp 0) = true ∧ descOf (.desIp 0) ≠ 0x0A00 := by decide

/-- `RunPauseResume`: a state for each condition and for its negation. -/
theorem witness_RunPauseResume :
    (desReady.seq = .ready ∧ desReady.loaded = true ∧ desReady.fatal = false) ∧ State.reset.loaded = false
      ∧ (desRunning.seq = .running ∧ desRunning.fatal = false) ∧ desReady.seq ≠ .running
      ∧ (desPaused.seq = .paused ∧ desPaused.fatal = false) ∧ desReady.seq ≠ .paused := by decide

/-- `StepCommand`: no step queued; a legal step; a legal last step that is not the terminal one; an illegal word. -/
theorem witness_StepCommand :
    ¬(State.reset.loaded = true ∧ State.reset.fatal = false ∧ State.reset.qhead < State.reset.qlen)
      ∧ (desReady.loaded = true ∧ desReady.fatal = false ∧ desReady.qhead < desReady.qlen ∧ desReady.qhead.toNat < 56
        ∧ decodeD16 (readElem desReady.q desReady.qhead.toNat 0) = .ok (.desIp 0)
        ∧ legal (sessionOf desReady) (.desIp 0) = true ∧ CanComplete 0x0800 desReady)
      ∧ (let s := { desAt zeroBlock 17 with q := Vector.replicate 56 0x0800 }
        decodeD16 (readElem s.q s.qhead.toNat 0) = .ok (.desIp 0) ∧ legal (sessionOf s) (.desIp 0) = true
          ∧ ¬CanComplete 0x0800 s ∧ s.qhead < s.qlen ∧ s.loaded = true ∧ s.fatal = false)
      ∧ (let s := { desAt zeroBlock 17 with q := Vector.replicate 56 0x0100 }
        decodeD16 (readElem s.q s.qhead.toNat 0) = .ok (.ark 0) ∧ legal (sessionOf s) (.ark 0) = false
          ∧ s.qhead < s.qlen ∧ s.loaded = true ∧ s.fatal = false) :=
  ⟨by decide, ⟨rfl, rfl, by decide, by decide, rfl, rfl, by decide⟩, ⟨rfl, rfl, by decide, by decide, rfl, rfl⟩,
    rfl, rfl, by decide, rfl, rfl⟩

/-- `InitAccepted`, `InitEqualsResetThenInit`, `RoundTrip`, `KnownVectors`: inputs that pass every check, for both
algorithms, over no session and over a running one. -/
theorem witness_InitAccepted :
    InitOk aesInput ∧ InitOk desInput ∧ InitOk desOverRunning
      ∧ InitOk (withInputs 0x18 "00112233445566778899AABBCCDDEEFF"
        "000102030405060708090a0b0c0d0e0f101112131415161718191a1b1c1d1e1f") := by
  and_intros <;> decide +kernel

theorem witness_InitEqualsResetThenInit : InitOk desOverFatal := by decide +kernel

/-- `InitRejected`: a state for each clause, at the edges where clauses meet. -/
theorem witness_InitRejected :
    (2 ≤ cfgAlg (withConfig 0x02) ∧ 2 ≤ cfgAlg (withConfig 0x2F))
      ∧ (cfgAlg (withConfig 0x2C) = 0 ∧ cfgKeysize (withConfig 0x2C) = 3)
      ∧ (cfgAlg (withConfig 0x2D) < 2 ∧ (cfgAlg (withConfig 0x2D) = 0 → cfgKeysize (withConfig 0x2D) ≠ 3)
        ∧ 2 ≤ cfgMode (withConfig 0x2D))
      ∧ (ConfigOk shortText ∧ shortText.textLen.toNat ≠ requiredText shortText)
      ∧ (ConfigOk badText ∧ badText.textLen.toNat = requiredText badText ∧ ¬AllHex badText.textBuf (requiredText badText))
      ∧ (ConfigOk shortKey ∧ shortKey.textLen.toNat = requiredText shortKey
        ∧ AllHex shortKey.textBuf (requiredText shortKey) ∧ shortKey.keyLen.toNat ≠ requiredKey shortKey)
      ∧ (ConfigOk badKey ∧ badKey.textLen.toNat = requiredText badKey ∧ AllHex badKey.textBuf (requiredText badKey)
        ∧ badKey.keyLen.toNat = requiredKey badKey ∧ ¬AllHex badKey.keyBuf (requiredKey badKey)) := by
  and_intros <;> decide +kernel

/-- `CommandTable`: a state of the invariant in each row of R247's table, a fatal state, and both outcomes of `INIT`. -/
theorem witness_CommandTable_ready :
    (Inv State.reset ∧ State.reset.seq = .ready ∧ State.reset.loaded = false)
      ∧ (Inv desReady ∧ desReady.seq = .ready ∧ desReady.loaded = true) := ⟨⟨inv_reset, rfl, rfl⟩, inv_desReady, rfl, rfl⟩

theorem witness_CommandTable_running :
    (Inv desRunning ∧ desRunning.seq = .running) ∧ (Inv desPaused ∧ desPaused.seq = .paused) :=
  ⟨⟨inv_desRunning, rfl⟩, inv_desPaused, rfl⟩

theorem witness_CommandTable_complete : Inv desDone ∧ desDone.seq = .complete :=
  ⟨inv_desDone, by decide +kernel⟩

theorem witness_CommandTable_fatal :
    desOverFatal.fatal = true ∧ InitOk desInput ∧ ¬InitOk State.reset ∧ 7 ≤ 7 % 256 := by
  refine ⟨rfl, by decide +kernel, by decide +kernel, by decide⟩

/-- `EventsOfATransition`, `SessionImmutable`, `HistoryAppendOnly`: a transition that takes a step and one that takes
none. -/
theorem witness_SessionImmutable :
    isNext (step desRunning) = true ∧ nextKeepsSession desRunning = true
      ∧ isNext (step (setScript [cmd 0x03] desRunning)) = true
      ∧ nextKeepsSession (setScript [cmd 0x03] desRunning) = true := by decide +kernel

theorem witness_EventsOfATransition : step desRunning = .next (nextOf (step desRunning)) :=
  eq_next_of_isNext (by decide +kernel)

theorem witness_HistoryAppendOnly :
    step desRunning = .next (nextOf (step desRunning)) ∧ nextKeepsSession desRunning = true :=
  ⟨eq_next_of_isNext (by decide +kernel), rfl⟩

/-- `GfMultiplyLaws`: a byte that has an inverse. -/
theorem witness_GfMultiplyLaws : (0x53 : Byte) ≠ 0 := by decide

/-- `BitPrimitives`: a table and positions at both ends. -/
theorem witness_BitPrimitives :
    [1, 1, 4, 4, 2].length = 5 ∧ (∀ p ∈ [1, 1, 4, 4, 2], 1 ≤ p ∧ p ≤ 4) ∧ 1 ≤ 5 ∧ 5 ≤ 5 := by decide

/-- `BitStringsInBytes` and `FeistelFunction`: positions and indices at both ends of their ranges. -/
theorem witness_BitStringsInBytes : (1 ≤ 1 ∧ 1 ≤ 64) ∧ (1 ≤ 64 ∧ 64 ≤ 64) ∧ (15 ≤ 15 ∧ 1 ≤ 48 ∧ 48 ≤ 48) := by decide

theorem witness_FeistelFunction : (1 ≤ 1 ∧ 1 ≤ 8) ∧ (1 ≤ 8 ∧ 8 ≤ 8) ∧ (1 ≤ 4 ∧ 4 ≤ 4) := by decide

/-- `AesKeyExpansion`: keys of the three lengths. -/
theorem witness_AesKeyExpansion :
    (List.replicate 16 (0 : Byte)).length = 4 * 4 ∧ (List.replicate 24 (0 : Byte)).length = 4 * 6
      ∧ (List.replicate 32 (0 : Byte)).length = 4 * 8 := by decide

/-- `DesKeySchedule`: two keys that differ in a parity bit only. -/
theorem witness_DesKeySchedule :
    ∀ p, p ≤ 64 → 1 ≤ p → p % 8 ≠ 0 → bitAt (0x0000000000000000 : BitVec 64) p = bitAt (0x0101010101010101 : BitVec 64) p := by
  decide

/-- `QueueEnumeration`, `EnumeratedStepsLegal`: sessions of each kind, and a step of a list. -/
theorem witness_QueueEnumeration :
    (⟨.aes, .k128, .enc⟩ : Session).alg = .aes ∧ (⟨.aes, .k128, .dec⟩ : Session).mode = .dec
      ∧ (⟨.des, .k128, .enc⟩ : Session).alg = .des ∧ (qlenOf ⟨.aes, .k128, .enc⟩).toNat ≤ 40
      ∧ (qlenOf ⟨.des, .k128, .enc⟩).toNat ≤ 55 := by decide

theorem witness_EnumeratedStepsLegal : Instr.desRnd 15 ∈ stepList ⟨.des, .k128, .enc⟩ := by decide

/-- `HostWrites`: the last element, the first index past it, a read-only and an unmapped number. -/
theorem witness_HostWrites :
    63 < 64 ∧ 64 ≤ 64 ∧ (0x02 : Byte).toNat ∉ [0x00, 0x01, 0x10, 0x11, 0x20, 0x21]
      ∧ (0xFF : Byte).toNat ∉ [0x00, 0x01, 0x10, 0x11, 0x20, 0x21] := by decide

/-- `HostReads`: `CMD` and unmapped numbers, and a session of each algorithm. -/
theorem witness_HostReads :
    (0x00 : Byte).toNat ∉ [0x01, 0x02, 0x03, 0x04, 0x05, 0x06, 0x07, 0x08, 0x09, 0x0A, 0x10, 0x11, 0x20, 0x21, 0x30, 0x31,
        0x32, 0x33, 0x34, 0x35]
      ∧ (0x36 : Byte).toNat ∉ [0x01, 0x02, 0x03, 0x04, 0x05, 0x06, 0x07, 0x08, 0x09, 0x0A, 0x10, 0x11, 0x20, 0x21, 0x30, 0x31,
        0x32, 0x33, 0x34, 0x35]
      ∧ State.reset.sAlg = .aes ∧ desReady.sAlg = .des := by decide

/-- `StatePorts`, `SessionPorts`: an AES and a DES state of the invariant. -/
theorem witness_SessionPorts :
    (Inv State.reset ∧ State.reset.sAlg = .aes ∧ sNr (sessionOf State.reset) < 11 ∧ State.reset.qhead.toNat ≤ 0)
      ∧ (Inv desReady ∧ desReady.sAlg = .des ∧ desReady.qlen.toNat ≤ 18) :=
  ⟨⟨inv_reset, rfl, by decide, by decide⟩, inv_desReady, rfl, by decide⟩

theorem witness_StatePorts : Inv desReady ∧ desReady.sAlg = .des := ⟨inv_desReady, rfl⟩

/-- `HexText`: a buffer that holds the text of some bytes; a code at each end of its ranges. -/
theorem witness_HexText :
    [(0x69 : Byte), 0xC4, 0x0A].length ≤ 32
      ∧ Holds (Vector.ofFn fun n : Fin 64 => (hexText [0x69, 0xC4, 0x0A]).getD n.val 0) (hexText [0x69, 0xC4, 0x0A])
      ∧ 31 < 32 ∧ hexval 0x39 = some 9 ∧ hexval 0x46 = some 15 ∧ hexval 0x66 = some 15 ∧ hexval 0x40 = none := by decide

theorem witness_BinaryRendering : [(0x85 : Byte), 0xE8] ≠ [] ∧ 0 + 1 < [(0x85 : Byte), 0xE8].length := by decide

/-- `StepKeepsInv`, `InvNeverStops`: a state of the invariant with a step to take. -/
theorem witness_StepKeepsInv : Inv desRunning ∧ step desRunning = .next (nextOf (step desRunning)) :=
  ⟨inv_desRunning, eq_next_of_isNext (by decide +kernel)⟩

theorem witness_InvNeverStops : Inv desRunning := inv_desRunning

/-- `RunReachesComplete`: a running session that only the engine moves. -/
theorem witness_RunReachesComplete :
    Inv desRunning ∧ desRunning.seq = .running ∧ ∀ turn ∈ desRunning.script, turn = .engine :=
  ⟨inv_desRunning, rfl, fun _ h => nomatch h⟩

/-- `PauseResumeNonInterference`: a newly built session and eighteen `STEP` commands, which complete it. -/
theorem witness_PauseResumeNonInterference :
    Inv desReady ∧ desReady.loaded = true ∧ desReady.seq = .ready
      ∧ (∀ turn ∈ List.replicate 18 (cmd 0x05), keepsSession turn = true)
      ∧ runSteps (List.replicate 18 (cmd 0x05)).length (setScript (List.replicate 18 (cmd 0x05)) desReady) = .next desDone
      ∧ desDone.seq = .complete :=
  ⟨inv_desReady, rfl, rfl, by decide, eq_next_of_isNext (by decide +kernel), by decide +kernel⟩

/-- The encrypting run of `RoundTrip`'s witness. -/
def desEncrypted : State := nextOf (wholeRun desInput)

/-- The host asks for the decryption of that run's output. -/
def desBack : State := { desInput with config := 0x11, textBuf := Vector.ofFn fun n : Fin 64 => outHex desEncrypted n.val }

/-- `RoundTrip`: the two runs of the DES known vector. -/
theorem witness_RoundTrip :
    InitOk desInput ∧ cfgMode desInput = 0 ∧ InitOk desBack
      ∧ configured desBack = { configured desInput with mode := .dec }
      ∧ (∀ n, n < requiredKey desInput → readElem desBack.keyBuf n 0 = readElem desInput.keyBuf n 0)
      ∧ ∀ n, n < requiredText desInput → readElem desBack.textBuf n 0 = outHex desEncrypted n := by
  and_intros <;> decide +kernel

/-- `KnownVectors`: states that hold the inputs of the two vectors. -/
theorem witness_KnownVectors :
    (aesInput.config = 0x00 ∧ aesInput.textLen = 32 ∧ aesInput.keyLen = 32
        ∧ Holds aesInput.textBuf (charCodes "00112233445566778899aabbccddeeff")
        ∧ Holds aesInput.keyBuf (charCodes "000102030405060708090a0b0c0d0e0f"))
      ∧ (desInput.config = 0x01 ∧ desInput.textLen = 16 ∧ desInput.keyLen = 16
        ∧ Holds desInput.textBuf (charCodes "0123456789ABCDEF")
        ∧ Holds desInput.keyBuf (charCodes "133457799BBCDFF1")) := by
  and_intros <;> decide +kernel

end Sys2Proof.Tests
end

section
/-! SUPPORT. Rules of the state operations that the statements about the state share: what a finished step and a held
step leave in each register, and what the invariant says about the queue. -/

namespace Sys2Proof.Machine

/-! ## Elements and numbers -/

theorem readElem_writeElem_ne {α : Type} {n : Nat} (v : Vector α n) {i j : Nat} (x d : α) (h : j ≠ i) :
    readElem (writeElem v i x) j d = readElem v j d := by
  rw [readElem_writeElem, if_neg fun hj => h hj.1]

theorem readElem_writeElem_self {α : Type} {n : Nat} (v : Vector α n) {i : Nat} (x d : α) (h : i < n) :
    readElem (writeElem v i x) i d = x := by
  rw [readElem_writeElem, if_pos ⟨rfl, h⟩]

theorem toNat_succ_of_lt {q : BitVec 8} (h : q.toNat < 56) : (q + 1).toNat = q.toNat + 1 := by
  bv_omega

theorem roundOf_eq_setWidth (d : Desc) : roundOf d = d.setWidth 8 :=
  (BitVec.setWidth_eq_extractLsb' (by decide)).symm

/-! ## A finished step, whichever of its three ends it takes (R240, R241) -/

@[simp] theorem finishStep_st (d : Desc) (x : Block) (s : State) : (finishStep d x s).st = x := by
  rcases finishStep_cases d x s with ⟨_, e⟩ | ⟨_, _, e⟩ | ⟨_, _, e⟩ <;> rw [e] <;> rfl

@[simp] theorem finishStep_hd (d : Desc) (x : Block) (s : State) :
    (finishStep d x s).hd = writeElem s.hd s.qhead.toNat d := by
  rcases finishStep_cases d x s with ⟨_, e⟩ | ⟨_, _, e⟩ | ⟨_, _, e⟩ <;> rw [e] <;> rfl

@[simp] theorem finishStep_hs (d : Desc) (x : Block) (s : State) :
    (finishStep d x s).hs = writeElem s.hs s.qhead.toNat x := by
  rcases finishStep_cases d x s with ⟨_, e⟩ | ⟨_, _, e⟩ | ⟨_, _, e⟩ <;> rw [e] <;> rfl

@[simp] theorem finishStep_round (d : Desc) (x : Block) (s : State) : (finishStep d x s).round = roundOf d := by
  rcases finishStep_cases d x s with ⟨_, e⟩ | ⟨_, _, e⟩ | ⟨_, _, e⟩ <;> rw [e] <;> rfl

@[simp] theorem finishStep_qhead (d : Desc) (x : Block) (s : State) : (finishStep d x s).qhead = s.qhead + 1 := by
  rcases finishStep_cases d x s with ⟨_, e⟩ | ⟨_, _, e⟩ | ⟨_, _, e⟩ <;> rw [e] <;> rfl

theorem finishStep_elsewhere (d : Desc) (x : Block) (s : State) : SameElsewhere s (finishStep d x s) := by
  rcases finishStep_cases d x s with ⟨_, e⟩ | ⟨_, _, e⟩ | ⟨_, _, e⟩ <;> rw [e] <;> exact commitStep_elsewhere d x s

/-! ## The hold after `STEP` (R245) moves `SEQ` alone -/

theorem holdAfterStep_of_ne_ready {s : State} (hr : s.seq ≠ .ready) : holdAfterStep s = s :=
  if_neg fun h => hr h.2

/-! ## The ten data paths -/

/-- A DES step leaves bytes 8 to 15 of its block (log entry 11). -/
theorem readElem_dataPath_ge {i : Instr} {k : Byte} (hi : i = .desIp k ∨ i = .desRnd k ∨ i = .desFp k)
    (ks : KeyStore) (b : Block) {n : Nat} (hn : 8 ≤ n) : readElem (dataPath i ks b) n 0 = readElem b n 0 := by
  rcases hi with rfl | rfl | rfl <;> exact readElem_desStore_ge _ b hn

/-- The legal steps of a DES session are the three DES steps (R93). -/
theorem legal_des {ses : Session} {i : Instr} (hl : legal ses i = true) (ha : ses.alg = .des) :
    ∃ k, i = .desIp k ∨ i = .desRnd k ∨ i = .desFp k := by
  cases i <;> simp [legal, ha] at hl ⊢

theorem dataPathOfDesc_ok {d : Desc} {i : Instr} (hd : decodeD16 d = .ok i) (ks : KeyStore) (b : Block) :
    dataPathOfDesc d ks b = dataPath i ks b := by
  rw [dataPathOfDesc, hd]

/-! ## The enumerated queue of a session (R232, R233) -/

/-- Every session the registers of R35 can hold. -/
def allSessions : List Session :=
  [.aes, .des].flatMap fun a => [.k128, .k192, .k256].flatMap fun k => [.enc, .dec].map fun m => ⟨a, k, m⟩

theorem mem_allSessions (ses : Session) : ses ∈ allSessions := by
  obtain ⟨a, k, m⟩ := ses
  cases a <;> cases k <;> cases m <;> decide

theorem length_stepList (ses : Session) : 0 < (stepList ses).length ∧ (stepList ses).length ≤ 56 :=
  (by decide : ∀ ses ∈ allSessions, 0 < (stepList ses).length ∧ (stepList ses).length ≤ 56) ses (mem_allSessions ses)

theorem qlenOf_toNat (ses : Session) : (qlenOf ses).toNat = (stepList ses).length :=
  Nat.mod_eq_of_lt (by have := length_stepList ses; omega)

theorem legal_of_mem_stepList {ses : Session} {i : Instr} (h : i ∈ stepList ses) : legal ses i = true :=
  (by decide +kernel : ∀ ses ∈ allSessions, ∀ i ∈ stepList ses, legal ses i = true) ses (mem_allSessions ses) i h

/-- The last descriptor enumerated is the session's terminal one (R241). -/
theorem getLast_stepList (ses : Session) : (stepList ses).getLast?.map descOf = some (terminalDesc ses) :=
  (by decide +kernel : ∀ ses ∈ allSessions, (stepList ses).getLast?.map descOf = some (terminalDesc ses))
    ses (mem_allSessions ses)

/-- Entry `n` of the queue is the descriptor of step `n`. -/
theorem readElem_queueOf (ses : Session) {n : Nat} (hn : n < (stepList ses).length) :
    readElem (queueOf ses) n 0 = descOf (stepList ses)[n] := by
  have h56 : n < 56 := by have := length_stepList ses; omega
  rw [queueOf, readElem_ofFn, dif_pos h56]
  simp [hn]

end Sys2Proof.Machine
end

section
/-! SUPPORT. The invariant of R44 taken apart: what it says of a machine with no session, of a loaded one, and of the
step at the head of the queue. -/

namespace Sys2Proof.Machine

/-! ## No session loaded (R32, R44 (b)) -/

/-- The session registers hold what a session reset leaves (R342); `ERR` may differ. -/
structure Unloaded (s : State) : Prop where
  st : s.st = zeroBlock
  ks : s.ks = Vector.replicate Config.ksBytes 0
  q : s.q = Vector.replicate Config.qcap 0
  qlen : s.qlen = 0
  qhead : s.qhead = 0
  hd : s.hd = Vector.replicate Config.hcap 0
  hs : s.hs = Vector.replicate Config.hcap zeroBlock
  round : s.round = 0
  sAlg : s.sAlg = .aes
  sKeysize : s.sKeysize = .k128
  sMode : s.sMode = .enc
  seq : s.seq = .ready
  loaded : s.loaded = false
  fatal : s.fatal = false

theorem unloaded_iff (s : State) : Unloaded s ↔ s = { sessionReset s with err := s.err } := by
  constructor
  · intro h
    cases s
    cases h
    simp_all [sessionReset]
  · intro h
    rw [h]
    constructor <;> rfl

theorem unloaded_sessionReset (s : State) : Unloaded (sessionReset s) := by
  constructor <;> rfl

/-- With no session loaded, only the emptiness and `CONFIG` are left of the invariant to check. -/
theorem Unloaded.inv {s : State} (h : Unloaded s) (hc : ConfigInv s) : Inv s := by
  have hq : s.qhead.toNat = 0 := by simp [h.qhead]
  refine ⟨fun _ => (unloaded_iff s).mp h, ?_, ?_, h.fatal, ?_, ?_, ?_, ?_, hc⟩
  · simp [QueueInv, h.loaded]
  · simp [SeqInv, h.loaded]
  · refine ⟨fun e _ he => by omega, fun e he _ => ?_, fun e _ he => by omega, fun e _ he => by omega⟩
    simp [h.hd, h.hs, Config.hcap, he]
  · simp [RoundInv, h.round, h.qhead]
  · simp [DesBytesInv, h.sAlg]
  · intro n hn _
    simp [h.ks, Config.ksBytes, hn]

/-! ## A loaded session -/

/-- What the invariant says of a loaded session apart from `SEQ`. -/
def SessionInv (s : State) : Prop :=
  QueueInv s ∧ NoFatalInv s ∧ HistoryInv s ∧ RoundInv s ∧ DesBytesInv s ∧ KeyStoreInv s ∧ ConfigInv s

theorem Inv.session {s : State} (h : Inv s) : SessionInv s := by
  obtain ⟨_, hQ, _, hrest⟩ := h
  exact ⟨hQ, hrest⟩

theorem SessionInv.inv {s : State} (h : SessionInv s) (hl : s.loaded = true) (hs : SeqInv s) : Inv s := by
  obtain ⟨hQ, hrest⟩ := h
  exact ⟨fun h0 => (by simp [hl] at h0), hQ, hs, hrest⟩

theorem SessionInv.after_setSeq {s : State} (h : SessionInv s) (x : Seq) : SessionInv (setSeq x s) := h

theorem Inv.unloaded {s : State} (h : Inv s) (hl : s.loaded = false) : Unloaded s :=
  (unloaded_iff s).mpr (h.1 hl)

theorem Inv.config {s : State} (h : Inv s) : ConfigInv s := by
  obtain ⟨_, _, _, _, _, _, _, _, hC⟩ := h
  exact hC

theorem Inv.loaded_of_seq {s : State} (h : Inv s) (hs : s.seq ≠ .ready) : s.loaded = true := by
  by_contra hl
  exact hs (h.unloaded (by simpa using hl)).seq

/-! ## Transitions that leave the session alone -/

/-- The session's storage and control are the same in both states; input registers, `ERR`, `EVT` and the model's own
fields may differ. -/
structure SameSession (s t : State) : Prop where
  st : t.st = s.st
  ks : t.ks = s.ks
  q : t.q = s.q
  qlen : t.qlen = s.qlen
  qhead : t.qhead = s.qhead
  hd : t.hd = s.hd
  hs : t.hs = s.hs
  round : t.round = s.round
  sAlg : t.sAlg = s.sAlg
  sKeysize : t.sKeysize = s.sKeysize
  sMode : t.sMode = s.sMode
  seq : t.seq = s.seq
  loaded : t.loaded = s.loaded
  fatal : t.fatal = s.fatal

theorem Unloaded.of_sameSession {s t : State} (hs : Unloaded s) (h : SameSession s t) : Unloaded t where
  st := h.st.trans hs.st
  ks := h.ks.trans hs.ks
  q := h.q.trans hs.q
  qlen := h.qlen.trans hs.qlen
  qhead := h.qhead.trans hs.qhead
  hd := h.hd.trans hs.hd
  hs := h.hs.trans hs.hs
  round := h.round.trans hs.round
  sAlg := h.sAlg.trans hs.sAlg
  sKeysize := h.sKeysize.trans hs.sKeysize
  sMode := h.sMode.trans hs.sMode
  seq := h.seq.trans hs.seq
  loaded := h.loaded.trans hs.loaded
  fatal := h.fatal.trans hs.fatal

/-- The invariant speaks of the session and of `CONFIG` only. -/
theorem Inv.of_sameSession {s t : State} (hi : Inv s) (h : SameSession s t) (hc : ConfigInv t) : Inv t := by
  refine ⟨fun hl => (unloaded_iff t).mp ((hi.unloaded (h.loaded ▸ hl)).of_sameSession h), ?_⟩
  obtain ⟨_, hQ, hS, hF, hH, hR, hD, hK, _⟩ := hi
  cases s
  cases t
  obtain ⟨rfl, rfl, rfl, rfl, rfl, rfl, rfl, rfl, rfl, rfl, rfl, rfl, rfl, rfl⟩ := h
  exact ⟨hQ, hS, hF, hH, hR, hD, hK, hc⟩

theorem sameSession_setScript (ts : List Turn) (s : State) : SameSession s (setScript ts s) := by
  constructor <;> rfl

theorem sameSession_receive (v : BitVec 16) (s : State) : SameSession s (receive v s) := by
  constructor <;> rfl

theorem sameSession_hostWrite (n : Byte) (i v : Nat) (s : State) : SameSession s (hostWrite n i v s) := by
  constructor <;> simp

theorem sameSession_raise {e : ErrorCode} (he : errorKind e ≠ .internalInvariant) (s : State) :
    SameSession s (raise e s) := by
  constructor <;> simp [he]

/-- A write of `CONFIG` drops bits 7:6, and no other write reaches it (R36, R272). -/
theorem ConfigInv.after_hostWrite {s : State} (h : ConfigInv s) (n : Byte) (i v : Nat) : ConfigInv (hostWrite n i v s) := by
  unfold hostWrite
  split
  · change (BitVec.ofNat 8 v &&& 0x3F) &&& 0xC0 = 0
    rw [BitVec.and_assoc]
    simp
  all_goals exact h

/-! ## `RUN`, `PAUSE` and `RESUME` -/

/-- Between `RUNNING` and `PAUSED`, and from `READY` to `RUNNING`, `SEQ` may move while the queue is not drained. -/
theorem Inv.after_setSeq {s : State} (hi : Inv s) (hl : s.loaded = true) (hs : s.seq ≠ .complete) {x : Seq}
    (hx : x = .running ∨ x = .paused) : Inv (setSeq x s) := by
  refine (hi.session.after_setSeq x).inv hl fun _ => ?_
  obtain ⟨_, _, hS, _⟩ := hi
  have hq : s.qhead ≠ s.qlen := fun h => hs ((hS hl).1.mpr h)
  rcases hx with rfl | rfl <;> simp [hq]

end Sys2Proof.Machine
end

section
/-! SUPPORT. The invariant after an accepted `INIT` (R237) and after a step (R240, R241), and so along every
transition. -/

namespace Sys2Proof.Machine

/-! ## The key schedules fill their part of `KS` and no more (R24, R25) -/

theorem length_expandWords (nk k : Nat) (w : List AesWord) : (expandWords nk k w).length = w.length + k := by
  induction k generalizing w with
  | zero => rfl
  | succ k ih => simp [expandWords, ih]; omega

theorem length_aesSchedule (key : List Byte) (nk : Nat) : (aesSchedule key nk).length = 4 * (nk + 6 + 1) := by
  rw [aesSchedule, length_expandWords]
  simp [keyWords]
  omega

theorem length_desKeysFrom (ns : List Nat) (c d : BitVec 28) : (desKeysFrom ns c d).length = ns.length := by
  induction ns generalizing c d with
  | nil => rfl
  | cons n ns ih => simp [desKeysFrom, ih]

theorem length_desSchedule (key : BitVec 64) : (desSchedule key).length = 16 := by
  simp [desSchedule, length_desKeysFrom, shiftsTable]

theorem readElem_storeWords_ge {w : List AesWord} {n : Nat} (hn : n < 240) (h : 4 * w.length ≤ n) :
    readElem (storeWords w) n 0 = 0 := by
  have hw : w.length ≤ n / 4 := by omega
  rw [storeWords, readElem_ofFn, dif_pos hn]
  rw [List.getD_eq_default _ _ hw]
  simp [zeroWord]

theorem readElem_storeDesKeys_ge {keys : List (BitVec 48)} {n : Nat} (hn : n < 240) (h : 6 * keys.length ≤ n) :
    readElem (storeDesKeys keys) n 0 = 0 := by
  have hk : keys.length ≤ n / 6 := by omega
  rw [storeDesKeys, readElem_ofFn, dif_pos hn]
  rw [List.getD_eq_default _ _ hk]
  simp

theorem keyStoreInv_construct (ses : Session) (s : State) : KeyStoreInv (construct ses s) := by
  intro n hn hge
  obtain ⟨a, k, m⟩ := ses
  cases a with
  | aes =>
    refine readElem_storeWords_ge hn ?_
    rw [length_aesSchedule]
    change 16 * (sNk k + 6 + 1) ≤ n at hge
    change 4 * (4 * (sNk k + 6 + 1)) ≤ n
    omega
  | des =>
    refine readElem_storeDesKeys_ge hn ?_
    rw [length_desSchedule]
    exact hge

/-! ## A session just built (R237) -/

theorem checkConfig_des {c : BitVec 8} {ses : Session} (h : checkConfig c = .ok ses) (ha : ses.alg = .des) :
    ses.keySize = .k128 := by
  unfold checkConfig at h
  split at h
  · cases h
  · split at h
    · cases h
    · split at h <;> cases h
      cases ha
  · split at h <;> cases h
    rfl

theorem readElem_loadBlock_ge {blk : List Byte} {n : Nat} (h : blk.length ≤ n) : readElem (loadBlock blk) n 0 = 0 := by
  rw [loadBlock, readElem_ofFn]
  split
  · exact List.getD_eq_default _ _ h
  · rfl

theorem sessionInv_construct {s : State} {ses : Session} (hc : ConfigInv s) (h : checkConfig s.config = .ok ses) :
    SessionInv (construct ses s) := by
  refine ⟨fun _ => ⟨rfl, rfl, Nat.zero_le _, checkConfig_des h⟩, rfl, ?_, by simp [RoundInv], ?_,
    keyStoreInv_construct ses s, by rwa [ConfigInv, construct_config]⟩
  · have hq : (construct ses s).qhead.toNat = 0 := rfl
    refine ⟨fun e _ he => by omega, fun e he _ => ?_, fun e _ he => by omega, fun e _ he => by omega⟩
    simp [Config.hcap, he]
  · intro ha
    refine ⟨fun n _ h8 => readElem_loadBlock_ge ?_, fun e he n hn _ => ?_⟩
    · change ses.alg = .des at ha
      simpa [ha, parseBytes, textLenOf] using h8
    · simp [Config.hcap, Config.blockBytes, he, hn]

theorem inv_construct {s : State} {ses : Session} (hc : ConfigInv s) (h : checkConfig s.config = .ok ses) :
    Inv (construct ses s) := by
  refine (sessionInv_construct hc h).inv rfl fun _ => ⟨?_, fun _ => rfl⟩
  have hpos : 0 < (qlenOf ses).toNat := by
    rw [qlenOf_toNat]
    exact (length_stepList ses).1
  have hne : (construct ses s).qhead ≠ (construct ses s).qlen := fun h0 => by
    rw [show qlenOf ses = 0 from h0.symm] at hpos
    exact absurd hpos (by decide)
  exact iff_of_false (by simp) hne

/-! ## The step at the head of the queue (R44 (a), (c)) -/

/-- A step may start only with a session loaded and a step queued (R238, R245). -/
theorem Inv.step_queued {s : State} (hi : Inv s) (h : s.seq = .running ∨ (s.loaded = true ∧ s.qhead < s.qlen)) :
    s.loaded = true ∧ s.qhead < s.qlen := by
  rcases h with hr | h
  · have hl : s.loaded = true := hi.loaded_of_seq (by simp [hr])
    obtain ⟨_, hQ, hS, _⟩ := hi
    obtain ⟨_, _, hle, _⟩ := hQ hl
    have hne : s.qhead ≠ s.qlen := fun he => by simpa [hr] using (hS hl).1.mpr he
    exact ⟨hl, by bv_omega⟩
  · exact h

/-- The word at the head of a loaded session's queue is a legal step that completes with its own effect. -/
theorem QueueInv.head {s : State} (hQ : QueueInv s) (hl : s.loaded = true) (hlt : s.qhead < s.qlen) :
    CanComplete (readElem s.q s.qhead.toNat 0) s
      ∧ ∃ i, decodeD16 (readElem s.q s.qhead.toNat 0) = .ok i ∧ legal (sessionOf s) i = true := by
  obtain ⟨hq, hlen, _, _⟩ := hQ hl
  have hn : s.qhead.toNat < (stepList (sessionOf s)).length := by
    rw [← qlenOf_toNat, ← hlen]
    exact hlt
  have h56 := (length_stepList (sessionOf s)).2
  have hlegal : legal (sessionOf s) (stepList (sessionOf s))[s.qhead.toNat] = true :=
    legal_of_mem_stepList (List.getElem_mem hn)
  rw [hq, readElem_queueOf _ hn]
  refine ⟨⟨by omega, fun hlast => ?_⟩, _, decodeD16_descOf _ (isStepInstr_of_legal hlegal), hlegal⟩
  have hlastn : (stepList (sessionOf s)).length - 1 = s.qhead.toNat := by
    rw [← qlenOf_toNat, ← hlen, ← hlast, toNat_succ_of_lt (by omega)]
    omega
  have hg := getLast_stepList (sessionOf s)
  rw [List.getLast?_eq_getElem?, hlastn, List.getElem?_eq_getElem hn] at hg
  simpa using hg

/-- The fetch of a legal descriptor finishes its step (R239, R240). -/
theorem runFetched_of_legal {s : State} {i : Instr} (hq : s.qhead.toNat < 56)
    (hd : decodeD16 (readElem s.q s.qhead.toNat 0) = .ok i) (hl : legal (sessionOf s) i = true) :
    runFetched s = .next (finishStep (descOf i) (dataPath i s.ks s.st) s) := by
  unfold runFetched
  rw [fetchInstr_of_decode hq hd]
  change exec i s = _
  rw [exec_descriptor (decodeD16_ok hd).1, atomicStep, if_pos hl, if_pos hq]

/-- No step the invariant allows meets an illegal descriptor: the step is committed, so `QHEAD` moves (R95, R306). -/
theorem Inv.runFetched_ne_raise {s : State} (hi : Inv s)
    (hp : s.seq = .running ∨ (s.loaded = true ∧ s.qhead < s.qlen)) :
    runFetched s ≠ .next (raise .badDescriptor s) := by
  intro hr
  obtain ⟨hl, hlt⟩ := hi.step_queued hp
  obtain ⟨_, hQ, _⟩ := hi
  obtain ⟨⟨h56, _⟩, i, hd, hlegal⟩ := hQ.head hl hlt
  rw [runFetched_of_legal h56 hd hlegal] at hr
  have hq := congrArg State.qhead (Host.Outcome.next.inj hr)
  rw [finishStep_qhead, raise_qhead] at hq
  bv_omega

/-! ## After a committed step (R240, R241) -/

section Committed

variable {s t : State} {i : Instr}

theorem Committed.sameElsewhere {d : Desc} (hc : Committed d s t) : SameElsewhere s t := by
  obtain ⟨_, _, _, _, _, _, _, _, h⟩ := hc
  exact h

theorem Committed.qhead_toNat {d : Desc} (hc : Committed d s t) : t.qhead.toNat = s.qhead.toNat + 1 := by
  obtain ⟨_, _, _, h, _⟩ := hc
  exact h

theorem SameElsewhere.sessionOf_eq (h : SameElsewhere s t) : sessionOf t = sessionOf s := by
  obtain ⟨_, _, _, ha, hk, hm, _⟩ := h
  simp [sessionOf, ha, hk, hm]

theorem SameElsewhere.sAlg_eq (h : SameElsewhere s t) : t.sAlg = s.sAlg := by
  obtain ⟨_, _, _, ha, _⟩ := h
  exact ha

theorem QueueInv.after_commit {d : Desc} (hQ : QueueInv s) (hlt : s.qhead < s.qlen) (hc : Committed d s t) :
    QueueInv t := by
  intro hl
  have hq := hc.qhead_toNat
  have hse := hc.sameElsewhere.sessionOf_eq
  obtain ⟨_, hqq, hqlen, ha, hk, _, hld, _⟩ := hc.sameElsewhere
  obtain ⟨h1, h2, _, h4⟩ := hQ (hld ▸ hl)
  rw [hqq, hqlen, hse, ha, hk]
  exact ⟨h1, h2, by bv_omega, h4⟩

/-- The new entry is the descriptor at the head and the block its data path gives on the last one (R44 (g)). -/
theorem HistoryInv.after_commit (hH : HistoryInv s)
    (hc : Committed (readElem s.q s.qhead.toNat 0) s t)
    (hst : t.st = dataPathOfDesc (readElem s.q s.qhead.toNat 0) s.ks s.st) : HistoryInv t := by
  have hq := hc.qhead_toNat
  obtain ⟨hks, hqq, _⟩ := hc.sameElsewhere
  obtain ⟨hhd, hhs, _⟩ := hc
  obtain ⟨hpast, hfree, hlast, hchain⟩ := hH
  rw [HistoryInv, hq, hqq, hks]
  refine ⟨fun e he hlt => ?_, fun e he hge => ?_, fun e he heq => ?_, fun e he hlt => ?_⟩
  · rw [hhd e he]
    split
    · next h => rw [h]
    · exact hpast e he (by omega)
  · rw [hhd e he, hhs e he, if_neg (by omega), if_neg (by omega)]
    exact hfree e he (by omega)
  · rw [hhs e he, if_pos (by omega)]
  · rw [hhs (e + 1) (by omega), hhs e (by omega), if_neg (show e ≠ s.qhead.toNat by omega)]
    split
    · next h => rw [hst, h, hlast e (by omega) h]
    · exact hchain e he (by omega)

theorem RoundInv.after_commit (hc : Committed (readElem s.q s.qhead.toNat 0) s t) : RoundInv t := by
  have hq := hc.qhead_toNat
  obtain ⟨_, hqq, _⟩ := hc.sameElsewhere
  obtain ⟨_, _, hround, _⟩ := hc
  have hne : t.qhead ≠ 0 := fun h0 => by simp [h0] at hq
  rw [RoundInv, if_neg hne, hq, hqq, hround, roundOf_eq_setWidth]
  rfl

theorem DesBytesInv.after_commit {d : Desc} (hD : DesBytesInv s) (hc : Committed d s t)
    (hl : legal (sessionOf s) i = true) (hst : t.st = dataPath i s.ks s.st) : DesBytesInv t := by
  intro ha
  obtain ⟨_, _, _, halg, _⟩ := hc.sameElsewhere
  rw [halg] at ha
  obtain ⟨hblock, hsnap⟩ := hD ha
  obtain ⟨k, hi⟩ := legal_des hl ha
  have hnew : ∀ n, n < 16 → 8 ≤ n → readElem t.st n 0 = 0 := fun n hn h8 => by
    rw [hst, readElem_dataPath_ge hi _ _ h8]
    exact hblock n hn h8
  refine ⟨hnew, fun e he n hn h8 => ?_⟩
  obtain ⟨_, hhs, _⟩ := hc
  rw [hhs e he]
  split
  · exact hnew n hn h8
  · exact hsnap e he n hn h8

theorem KeyStoreInv.after_commit {d : Desc} (hK : KeyStoreInv s) (hc : Committed d s t) : KeyStoreInv t := by
  have hse := hc.sameElsewhere.sessionOf_eq
  obtain ⟨hks, _, _, halg, _⟩ := hc.sameElsewhere
  rw [KeyStoreInv, hks, halg, hse]
  exact hK

theorem SessionInv.after_commit (h : SessionInv s) (hlt : s.qhead < s.qlen)
    (hd : decodeD16 (readElem s.q s.qhead.toNat 0) = .ok i) (hl : legal (sessionOf s) i = true)
    (hc : Committed (readElem s.q s.qhead.toNat 0) s t) (hst : t.st = dataPath i s.ks s.st) : SessionInv t := by
  obtain ⟨hQ, hF, hH, _, hD, hK, hC⟩ := h
  refine ⟨hQ.after_commit hlt hc, ?_, hH.after_commit hc (by rw [hst, dataPathOfDesc_ok hd]), RoundInv.after_commit hc,
    hD.after_commit hc hl hst, hK.after_commit hc, ?_⟩
  · obtain ⟨_, _, _, _, _, _, _, hfatal, _⟩ := hc
    exact hfatal.trans hF
  · obtain ⟨_, _, _, _, _, _, _, hcfg, _⟩ := hc.sameElsewhere
    rw [ConfigInv, hcfg]
    exact hC

/-- A committed step makes `SEQ` `COMPLETE` exactly when it drains the queue, and otherwise keeps it (R241). -/
theorem Committed.seq {d : Desc} (hc : Committed d s t) :
    (t.qhead ≠ t.qlen ∧ t.seq = s.seq) ∨ (t.qhead = t.qlen ∧ t.seq = .complete) := by
  obtain ⟨_, _, hqlen, _⟩ := hc.sameElsewhere
  obtain ⟨_, _, _, _, hgo, hdone, _⟩ := hc
  rw [hqlen]
  by_cases h : t.qhead = s.qlen
  · exact .inr ⟨h, (hdone h).1⟩
  · exact .inl ⟨h, (hgo h).1⟩

end Committed

/-- A queued step leaves the invariant, whether the engine or `STEP` takes it. -/
theorem Inv.after_finishStep {s : State} {i : Instr} (hi : Inv s)
    (hd : decodeD16 (readElem s.q s.qhead.toNat 0) = .ok i) (hl : legal (sessionOf s) i = true)
    (hp : s.seq = .running ∨ (s.loaded = true ∧ s.qhead < s.qlen)) :
    SessionInv (finishStep (descOf i) (dataPath i s.ks s.st) s)
      ∧ Committed (descOf i) s (finishStep (descOf i) (dataPath i s.ks s.st) s) := by
  obtain ⟨hld, hlt⟩ := hi.step_queued hp
  have hdesc := (decodeD16_ok hd).2
  have hS := hi.session
  have ⟨hQ, _⟩ := hS
  obtain ⟨hcan, _⟩ := hQ.head hld hlt
  rw [hdesc]
  obtain ⟨hc, hst⟩ := finishStep_committed (dataPath i s.ks s.st) hcan
  exact ⟨hS.after_commit hlt hd hl hc hst, hc⟩

/-- The last move of a step: `SEQ` stays `RUNNING` or `PAUSED`, or `STEP` holds a `READY` session, or the run is
complete (R241, R245). -/
theorem SessionInv.after_hold {t : State} (ht : SessionInv t) (hl : t.loaded = true)
    (hs : t.seq = .complete ↔ t.qhead = t.qlen) : Inv (holdAfterStep t) := by
  by_cases hr : t.seq = .ready
  · have ⟨_, hF, _⟩ := ht
    have hheld : holdAfterStep t = setSeq .paused t := if_pos ⟨hF, hr⟩
    have hne : t.qhead ≠ t.qlen := fun h => by simpa [hr] using hs.mpr h
    rw [hheld]
    exact (ht.after_setSeq .paused).inv hl fun _ => ⟨by simpa using hne, by simp⟩
  · rw [holdAfterStep_of_ne_ready hr]
    exact ht.inv hl fun _ => ⟨hs, fun h => absurd h hr⟩

/-- A step of the engine or of `STEP` keeps the invariant (R240, R241, R245). -/
theorem Inv.after_step {s : State} {i : Instr} {held : Bool} (hi : Inv s)
    (hd : decodeD16 (readElem s.q s.qhead.toNat 0) = .ok i) (hl : legal (sessionOf s) i = true)
    (he : held = false → s.seq = .running) (hh : held = true → s.loaded = true ∧ s.qhead < s.qlen) :
    Inv (let t := finishStep (descOf i) (dataPath i s.ks s.st) s
      if held then holdAfterStep t else t) := by
  have hp : s.seq = .running ∨ (s.loaded = true ∧ s.qhead < s.qlen) := by
    cases held
    · exact .inl (he rfl)
    · exact .inr (hh rfl)
  obtain ⟨ht, hc⟩ := hi.after_finishStep hd hl hp
  obtain ⟨hld, hlt⟩ := hi.step_queued hp
  have htl : (finishStep (descOf i) (dataPath i s.ks s.st) s).loaded = true := by
    obtain ⟨_, _, _, _, _, _, h, _⟩ := hc.sameElsewhere
    exact h.trans hld
  obtain ⟨_, _, hS, _⟩ := hi
  have hnot : s.seq ≠ .complete := fun h => by
    have := (hS hld).1.mp h
    bv_omega
  have hinv := ht.after_hold htl <| by
    rcases hc.seq with ⟨hq, hseq⟩ | ⟨hq, hseq⟩
    · exact iff_of_false (hseq ▸ hnot) hq
    · exact iff_of_true hseq hq
  cases held
  · have hr : (finishStep (descOf i) (dataPath i s.ks s.st) s).seq ≠ .ready := by
      rcases hc.seq with ⟨_, hseq⟩ | ⟨_, hseq⟩ <;> simp [hseq, he rfl]
    rwa [holdAfterStep_of_ne_ready hr] at hinv
  · exact hinv

/-- Every transition keeps the invariant (R44). -/
theorem Inv.after_transition {s t : State} (hi : Inv s) (h : Transition s t) : Inv t := by
  cases h with
  | none => exact hi
  | steps i held hd hl _ he hh _ => exact hi.after_step hd hl he hh
  | illegal hp _ hr => exact absurd hr (hi.runFetched_ne_raise hp)
  | rejected e hk => exact hi.of_sameSession (sameSession_raise hk s) hi.config
  | accepted ses hc _ => exact inv_construct hi.config hc
  | run h =>
    obtain ⟨hseq, hl, _⟩ := h
    exact hi.after_setSeq hl (by simp [hseq]) (.inl rfl)
  | pause h =>
    obtain ⟨hseq, _⟩ := h
    exact hi.after_setSeq (hi.loaded_of_seq (by simp [hseq])) (by simp [hseq]) (.inr rfl)
  | resume h =>
    obtain ⟨hseq, _⟩ := h
    exact hi.after_setSeq (hi.loaded_of_seq (by simp [hseq])) (by simp [hseq]) (.inl rfl)
  | reset => exact (unloaded_sessionReset s).inv hi.config
  | wrote n i v => exact hi.of_sameSession (sameSession_hostWrite n i v s) (hi.config.after_hostWrite n i v)
  | got v => exact hi.of_sameSession (sameSession_receive v s) hi.config

/-- Settles O52: the turn taken from the script leaves the session alone, and each transition keeps the invariant. -/
theorem stepKeepsInv : Obligations.StepKeepsInv := by
  intro s t hi h
  have hu : Inv (setScript s.script.tail s) := hi.of_sameSession (sameSession_setScript _ s) hi.config
  exact hu.after_transition (step_cases h)

/-- Settles O51: the state after power-on reset is one a session reset leaves. -/
theorem invAtReset : Obligations.InvAtReset :=
  (unloaded_sessionReset State.reset).inv (by decide)

end Sys2Proof.Machine
end

section
/-! SUPPORT. What a step descriptor leaves unchanged however it ends, what a transition appends to `EVT`, and what a
transition that neither starts nor discards a session does to it. -/

namespace Sys2Proof.Machine

/-! ## The frame of a step descriptor -/

theorem sameElsewhere_raise (e : ErrorCode) (s : State) : SameElsewhere s (raise e s) := by
  simp [SameElsewhere]

/-- `SEQ` after a finished step stays or becomes `COMPLETE` (R241). -/
theorem finishStep_seq (d : Desc) (x : Block) (s : State) :
    (finishStep d x s).seq = s.seq ∨ (finishStep d x s).seq = .complete := by
  rcases finishStep_cases d x s with ⟨_, e⟩ | ⟨_, _, e⟩ | ⟨_, _, e⟩ <;> rw [e]
  · exact .inl rfl
  · exact .inr rfl
  · exact .inl rfl

/-- A finished step raises nothing or `DRAIN_MISMATCH` (R241, R310). -/
theorem finishStep_error (d : Desc) (x : Block) (s : State) :
    ((finishStep d x s).err = s.err ∧ (finishStep d x s).fatal = s.fatal)
      ∨ ((finishStep d x s).err = 0x32 ∧ (finishStep d x s).fatal = true) := by
  rcases finishStep_cases d x s with ⟨_, e⟩ | ⟨_, _, e⟩ | ⟨_, _, e⟩ <;> rw [e]
  · exact .inl ⟨rfl, rfl⟩
  · exact .inl ⟨rfl, rfl⟩
  · exact .inr ⟨rfl, by simp [errorKind]⟩

/-- The records of a finished step, in order (R254, R286). -/
theorem finishStep_evt (d : Desc) (x : Block) (s : State) :
    let b := eventBlock s.sAlg x
    (finishStep d x s).evt = s.evt ++ [Event.stepStart d, Event.stepComplete d b]
      ∨ (finishStep d x s).evt = s.evt ++ [Event.stepStart d, Event.stepComplete d b, Event.runComplete b]
      ∨ (finishStep d x s).evt = s.evt ++ [Event.stepStart d, Event.stepComplete d b, Event.error .drainMismatch] := by
  rcases finishStep_cases d x s with ⟨_, e⟩ | ⟨_, _, e⟩ | ⟨_, _, e⟩ <;> rw [e]
  · exact .inl (commitStep_evt d x s)
  · exact .inr (.inl (by simp))
  · exact .inr (.inr (by simp))

/-- Settles O18: a step descriptor raises, or it finishes, and every field of a finished step is known. -/
theorem descriptorFrame : Obligations.DescriptorFrame := by
  intro i s t hi h
  rw [exec_descriptor hi] at h
  rcases atomicStep_cases i (dataPath i s.ks s.st) s with ⟨_, e⟩ | ⟨_, hq, e⟩ | ⟨_, _, e⟩ <;> rw [e] at h <;> cases h
  · exact ⟨sameElsewhere_raise _ s, fun _ _ _ => ⟨rfl, rfl⟩, .inl rfl, .inl rfl,
      .inr ⟨.inl rfl, by simp [errorKind]⟩, ⟨_, rfl⟩, fun _ _ _ _ _ => rfl⟩
  · refine ⟨finishStep_elsewhere _ _ s, fun e _ hne => ?_, .inr (finishStep_qhead _ _ s), finishStep_seq _ _ s,
      (finishStep_error _ _ s).imp_right fun ⟨he, hf⟩ => ⟨.inr he, hf⟩, ?_, fun k hk n h8 _ => ?_⟩
    · rw [finishStep_hd, finishStep_hs]
      exact ⟨readElem_writeElem_ne _ _ _ hne, readElem_writeElem_ne _ _ _ hne⟩
    · rcases finishStep_evt (descOf i) (dataPath i s.ks s.st) s with h | h | h <;> exact ⟨_, h⟩
    · rw [finishStep_st]
      exact readElem_dataPath_ge hk _ _ h8

/-! ## The records of a transition -/

@[simp] theorem holdAfterStep_st (s : State) : (holdAfterStep s).st = s.st := by
  unfold holdAfterStep; split <;> rfl

@[simp] theorem holdAfterStep_evt (s : State) : (holdAfterStep s).evt = s.evt := by
  unfold holdAfterStep; split <;> rfl

@[simp] theorem holdAfterStep_sAlg (s : State) : (holdAfterStep s).sAlg = s.sAlg := by
  unfold holdAfterStep; split <;> rfl

/-- Settles O29: of the transitions only a step and an error append records. -/
theorem eventsOfATransition : Obligations.EventsOfATransition := by
  intro s t h
  cases step_cases h with
  | steps i held =>
    refine .inr (.inr ⟨descOf i, ?_⟩)
    have hevt := finishStep_evt (descOf i) (dataPath i s.ks s.st) (setScript s.script.tail s)
    have ha := (finishStep_elsewhere (descOf i) (dataPath i s.ks s.st) (setScript s.script.tail s)).sAlg_eq
    cases held <;> simpa [ha] using hevt
  | illegal => exact .inr (.inl ⟨_, rfl⟩)
  | rejected e => exact .inr (.inl ⟨e, rfl⟩)
  | wrote => exact .inl (hostWrite_evt _ _ _ _)
  | none | accepted | run | pause | resume | reset | got => exact .inl (by simp)

/-! ## Turns that neither start nor discard a session -/

/-- The session's storage and latched configuration are unchanged, and no failed session recovers; `SEQ` may move. -/
structure SameStorage (s t : State) : Prop where
  st : t.st = s.st
  ks : t.ks = s.ks
  q : t.q = s.q
  qlen : t.qlen = s.qlen
  qhead : t.qhead = s.qhead
  hd : t.hd = s.hd
  hs : t.hs = s.hs
  round : t.round = s.round
  session : sessionOf t = sessionOf s
  loaded : t.loaded = s.loaded
  fatal : s.fatal = true → t.fatal = true

theorem sameStorage_refl (s : State) : SameStorage s s :=
  ⟨rfl, rfl, rfl, rfl, rfl, rfl, rfl, rfl, rfl, rfl, id⟩

theorem sameStorage_setSeq (x : Seq) (s : State) : SameStorage s (setSeq x s) :=
  ⟨rfl, rfl, rfl, rfl, rfl, rfl, rfl, rfl, rfl, rfl, id⟩

theorem sameStorage_raise (e : ErrorCode) (s : State) : SameStorage s (raise e s) :=
  ⟨rfl, rfl, rfl, rfl, rfl, rfl, rfl, rfl, rfl, rfl, fun hf => by simp [hf]⟩

theorem SameSession.sameStorage {s t : State} (h : SameSession s t) : SameStorage s t where
  st := h.st
  ks := h.ks
  q := h.q
  qlen := h.qlen
  qhead := h.qhead
  hd := h.hd
  hs := h.hs
  round := h.round
  session := by simp only [sessionOf, h.sAlg, h.sKeysize, h.sMode]
  loaded := h.loaded
  fatal := fun hf => h.fatal.trans hf

theorem sameStorage_holdAfterStep (s : State) : SameStorage s (holdAfterStep s) := by
  unfold holdAfterStep
  split
  · exact sameStorage_setSeq _ s
  · exact sameStorage_refl s

/-- What a turn that keeps the session does to it: nothing but to `SEQ` and `FATAL`, or the one step at the head of the
queue. -/
inductive SessionKept (s t : State) : Prop where
  /-- No step is taken. -/
  | same (h : SameStorage s t)
  /-- The step at `QHEAD` is finished (R240, R241). -/
  | stepped (i : Instr) (hd : decodeD16 (readElem s.q s.qhead.toNat 0) = .ok i) (hq : s.qhead.toNat < 56)
      (h : SameStorage (finishStep (descOf i) (dataPath i s.ks s.st) s) t)

theorem runFetched_sessionKept {s t : State} (h : runFetched s = .next t) : SessionKept s t := by
  rcases runFetched_cases s with e | ⟨i, hd, _, hq, e⟩ | ⟨_, e⟩ <;> rw [e] at h <;> cases h
  · exact .same (sameStorage_raise _ s)
  · exact .stepped i hd hq (sameStorage_refl _)

theorem engineTurn_sessionKept {s t : State} (h : engineTurn s = .next t) : SessionKept s t := by
  unfold engineTurn at h
  split at h
  · exact runFetched_sessionKept h
  · cases h
    exact .same (sameStorage_refl s)

theorem execStep_sessionKept {s t : State} (h : execStep s = .next t) : SessionKept s t := by
  unfold execStep at h
  split at h
  · rw [runQueued_eq_runFetched] at h
    rcases runFetched_cases s with e | ⟨i, hd, _, hq, e⟩ | ⟨_, e⟩ <;> rw [e] at h <;> cases h
    · exact .same (by simpa [holdAfterStep, errorKind] using sameStorage_raise _ s)
    · exact .stepped i hd hq (sameStorage_holdAfterStep _)
  · cases h
    exact .same (sameStorage_refl s)

/-- A command code decodes to the instruction whose word it is (R100). -/
theorem encode_of_decodeC8 {c : Byte} {i : Instr} (h : decodeC8 c = .ok i) : encode i = .c8 c := by
  unfold decodeC8 at h
  split at h <;> cases h
  all_goals
    rename_i hc
    exact congrArg Encoded.c8 (BitVec.eq_of_toNat_eq hc.symm)

theorem commandWrite_sessionKept {v : Nat} {s t : State} (h : commandWrite v s = .next t)
    (hinit : BitVec.ofNat 8 v ≠ 0x01) (hreset : BitVec.ofNat 8 v ≠ 0x06) : SessionKept s t := by
  unfold commandWrite at h
  split at h
  · next i hd =>
    have henc := encode_of_decodeC8 hd
    cases i with
    | ark | sb | sr | mc | isb | isr | imc | desIp | desRnd | desFp => cases henc
    | init => exact absurd (Encoded.c8.inj henc).symm hinit
    | reset => exact absurd (Encoded.c8.inj henc).symm hreset
    | step => exact execStep_sessionKept h
    | run | pause | resume =>
      cases h
      split
      · exact .same (sameStorage_setSeq _ s)
      · exact .same (sameStorage_refl s)
  · cases h
    exact .same (sameStorage_refl s)

theorem hostTurn_sessionKept {a : HostAct} {s t : State} (h : hostTurn a s = .next t)
    (hk : keepsSession (.host a) = true) : SessionKept s t := by
  cases a with
  | read n i j =>
    cases h
    exact .same (sameSession_receive _ s).sameStorage
  | write n i j v =>
    by_cases hn : n = 0x00
    · subst hn
      simp only [keepsSession, decide_true, Bool.true_and, Bool.not_eq_true', Bool.or_eq_false_iff,
        decide_eq_false_iff_not] at hk
      exact commandWrite_sessionKept h hk.1 hk.2
    · have hreg : ¬hostReg n = some .cmd := fun hc => hn ((hostReg_eq_cmd n).mp hc)
      simp only [hostTurn, if_neg hreg] at h
      cases h
      exact .same (sameSession_hostWrite n i v s).sameStorage

/-- Every transition but an `INIT` or a `RESET` keeps the session (R26, R289). -/
theorem step_sessionKept {s t : State} (h : step s = .next t) (hk : nextKeepsSession s = true) :
    SessionKept (setScript s.script.tail s) t := by
  unfold step at h
  unfold nextKeepsSession at hk
  cases hs : s.script with
  | nil =>
    have e : setScript [] s = s := by
      cases s
      cases hs
      rfl
    rw [hs] at h
    rw [List.tail_nil, e]
    exact engineTurn_sessionKept h
  | cons turn ts =>
    rw [hs] at h hk
    cases turn with
    | engine => exact engineTurn_sessionKept h
    | host a => exact hostTurn_sessionKept h hk

/-- Settles O54: no step descriptor writes the session's registers, and `FATAL` is never cleared by one. -/
theorem sessionImmutable : Obligations.SessionImmutable := by
  intro s t h hk
  cases step_sessionKept h hk with
  | same hst => exact ⟨hst.ks, hst.q, hst.qlen, hst.session, hst.loaded, hst.fatal⟩
  | stepped i _ _ hst =>
    have hf := finishStep_elsewhere (descOf i) (dataPath i s.ks s.st) (setScript s.script.tail s)
    have hses := hf.sessionOf_eq
    obtain ⟨hks, hq, hqlen, _, _, _, hl, _⟩ := hf
    refine ⟨hst.ks.trans hks, hst.q.trans hq, hst.qlen.trans hqlen, hst.session.trans hses, hst.loaded.trans hl,
      fun h1 => hst.fatal ?_⟩
    rcases finishStep_error (descOf i) (dataPath i s.ks s.st) (setScript s.script.tail s) with ⟨_, h2⟩ | ⟨_, h2⟩
    · exact h2.trans h1
    · exact h2

/-- Settles O55: a step writes the entry `QHEAD` and advances by one; nothing else touches the history. -/
theorem historyAppendOnly : Obligations.HistoryAppendOnly := by
  intro s t h hk
  cases step_sessionKept h hk with
  | same hst => exact .inl ⟨hst.qhead, hst.st, hst.hd, hst.hs, hst.round⟩
  | stepped i hd hq hst =>
    have hdesc : descOf i = readElem s.q s.qhead.toNat 0 := (decodeD16_ok hd).2
    have hqs : s.qhead.toNat < 56 := hq
    refine .inr ⟨?_, ?_, ?_, ?_, fun e _ hne => ?_⟩
    · rw [hst.qhead, finishStep_qhead]
      exact toNat_succ_of_lt hqs
    · rw [hst.hd, finishStep_hd, ← hdesc]
      exact readElem_writeElem_self _ _ _ hqs
    · rw [hst.hs, hst.st, finishStep_hs, finishStep_st]
      exact readElem_writeElem_self _ _ _ hqs
    · rw [hst.round, finishStep_round, hdesc]
    · rw [hst.hd, hst.hs, finishStep_hd, finishStep_hs]
      exact ⟨readElem_writeElem_ne _ _ _ hne, readElem_writeElem_ne _ _ _ hne⟩

end Sys2Proof.Machine
end

section
/-! SUPPORT. The registers computed from `CONFIG` and the status registers as they read. -/

namespace Sys2Proof.Machine

/-! ## The registers computed from `CONFIG` (R36, R37) -/

theorem configReg_toNat (s : State) : (configReg s).toNat = s.config.toNat % 64 := by
  rw [configReg, BitVec.toNat_and]
  exact Nat.and_two_pow_sub_one_eq_mod s.config.toNat 6

theorem nrReg_toNat (c : BitVec 8) :
    (nrReg c).toNat = if c.toNat % 4 = 0 ∧ c.toNat / 4 % 4 < 3 then 10 + 2 * (c.toNat / 4 % 4)
      else if c.toNat % 4 = 1 then 16 else 0 := by
  revert c; decide +kernel

theorem keylenReg_toNat (c : BitVec 8) :
    (keylenReg c).toNat = if c.toNat % 4 = 0 ∧ c.toNat / 4 % 4 < 3 then 32 + 16 * (c.toNat / 4 % 4)
      else if c.toNat % 4 = 1 then 16 else 0 := by
  revert c; decide +kernel

theorem textlenReg_toNat (c : BitVec 8) :
    (textlenReg c).toNat = if c.toNat % 4 = 0 then 32 else if c.toNat % 4 = 1 then 16 else 0 := by
  revert c; decide +kernel

/-! ## `STATUS` field by field (R38) -/

theorem statusReg_seq (s : State) : (statusReg s).toNat % 4 = (seqCode s.seq).toNat := by
  have h : (statusReg s).extractLsb' 0 2 = seqCode s.seq := extract_append_low _ _
  rw [← h]
  simp

theorem statusReg_loaded (s : State) : (statusReg s).getLsbD 2 = s.loaded := by
  simp only [statusReg, BitVec.getLsbD_append]
  cases s.loaded <;> rfl

theorem statusReg_pause (s : State) : (statusReg s).getLsbD 3 = decide (s.seq = .paused) := by
  simp only [statusReg, BitVec.getLsbD_append]
  cases s.seq <;> rfl

theorem statusReg_fatal (s : State) : (statusReg s).getLsbD 4 = s.fatal := by
  simp only [statusReg, BitVec.getLsbD_append]
  cases s.fatal <;> rfl

theorem statusReg_alg (s : State) : (statusReg s).getLsbD 5 = decide (s.sAlg = .des) := by
  simp only [statusReg, BitVec.getLsbD_append]
  cases s.sAlg <;> rfl

theorem statusReg_mode (s : State) : (statusReg s).getLsbD 6 = decide (s.sMode = .dec) := by
  simp only [statusReg, BitVec.getLsbD_append]
  cases s.sMode <;> rfl

theorem statusReg_lt (s : State) : (statusReg s).toNat < 128 := by
  have h : (statusReg s).msb = false := by
    rw [BitVec.msb_eq_getLsbD_last]
    simp only [statusReg, BitVec.getLsbD_append]
    rfl
  exact BitVec.toNat_lt_of_msb_false h

/-- Settles O45: each register read is the register's own computation, placed in 16 bits. -/
theorem computedRegisters : Obligations.ComputedRegisters := by
  intro s i j
  dsimp only
  have hread (x : BitVec 8) : (x.setWidth 16).toNat = x.toNat := BitVec.toNat_setWidth_of_le (by decide)
  have hstatus : hostRead 0x02 i j s = (statusReg s).setWidth 16 := rfl
  have hwide : ∀ {k : Nat}, k < 8 → (hostRead 0x02 i j s).getLsbD k = (statusReg s).getLsbD k := fun hk => by
    rw [hstatus, BitVec.getLsbD_setWidth]
    simp; omega
  have hn : (hostRead 0x02 i j s).toNat = (statusReg s).toNat := hread _
  rw [hn, hwide (by decide), hwide (by decide), hwide (by decide), hwide (by decide), hwide (by decide)]
  refine ⟨(hread _).trans (configReg_toNat s), (hread _).trans (nrReg_toNat s.config),
    (hread _).trans (keylenReg_toNat s.config), (hread _).trans (textlenReg_toNat s.config),
    (statusReg_seq s).trans ?_, statusReg_loaded s, statusReg_pause s, statusReg_fatal s, statusReg_alg s,
    statusReg_mode s, statusReg_lt s, (hread _).trans ?_⟩
  · cases s.seq <;> rfl
  · rw [status2Reg]
    cases s.sKeysize <;> rfl

/-- Settles O50: the registers are the literals of R45, and every element of an array reads 0. -/
theorem resetState : Obligations.ResetState := by
  refine ⟨rfl, fun n hn => ?_, fun n hn => ⟨?_, ?_, fun m hm => ?_⟩, rfl, rfl, rfl, rfl, rfl, rfl, rfl, rfl, rfl, rfl,
    fun n hn => ⟨?_, ?_⟩, rfl, rfl, rfl, rfl⟩ <;> simp [State.reset, *]

end Sys2Proof.Machine
end

section
/-! SUPPORT. The bits of a bit-string laid out in bytes (R66). -/

namespace Sys2Proof.Machine

/-! ## Bit-strings concatenated from bytes (R10, R66) -/

/-- The bit-string `x` is held in the bytes `b 0, b 1, …`: position `p` is bit `7 - ((p-1) mod 8)` of byte
`(p-1) div 8` (R66). -/
def HeldIn {n : Nat} (x : BitVec n) (b : Nat → Byte) : Prop :=
  ∀ p, 1 ≤ p → p ≤ n → bitAt x p = (b ((p - 1) / 8)).getLsbD (7 - (p - 1) % 8)

/-- Positions of a concatenation: those of the left part first, then those of the right part. -/
theorem bitAt_append {n m : Nat} (x : BitVec n) (y : BitVec m) {p : Nat} (hp : 1 ≤ p) :
    bitAt (x ++ y) p = if p ≤ n then bitAt x p else bitAt y (p - n) := by
  rw [bitAt, BitVec.getMsbD_append]
  by_cases hpn : p ≤ n
  · rw [if_neg (by omega), if_pos hpn, bitAt]
  · rw [if_pos (by omega), if_neg hpn, bitAt, Nat.sub_right_comm]

/-- Position `p` of one byte is its bit `8 - p`. -/
theorem bitAt_byte (x : Byte) {p : Nat} (hp : 1 ≤ p) (hp8 : p ≤ 8) : bitAt x p = x.getLsbD (8 - p) := by
  have h : 8 - 1 - (p - 1) = 8 - p := by omega
  rw [bitAt, BitVec.getMsbD_eq_getLsbD, decide_eq_true (by omega), Bool.true_and, h]

/-- The first byte holds the first eight positions. -/
theorem heldIn_byte (b : Nat → Byte) : HeldIn (b 0) b := by
  intro p hp hp8
  have hdiv : (p - 1) / 8 = 0 := by omega
  have hmod : 7 - (p - 1) % 8 = 8 - p := by omega
  rw [bitAt_byte _ hp hp8, hdiv, hmod]

/-- Byte `k` appended to the string of the `k` bytes before it holds the next eight positions. -/
theorem HeldIn.append_byte {n : Nat} {x : BitVec n} {b : Nat → Byte} (h : HeldIn x b) (k : Nat) (hn : n = 8 * k) :
    HeldIn (x ++ b k) b := by
  intro p hp hpn
  rw [bitAt_append x (b k) hp]
  by_cases hx : p ≤ n
  · rw [if_pos hx, h p hp hx]
  · have hdiv : (p - 1) / 8 = k := by omega
    have hmod : 7 - (p - 1) % 8 = 8 - (p - n) := by omega
    rw [if_neg hx, bitAt_byte _ (by omega) (by omega), hdiv, hmod]

/-- `B[1..64]` is held in the bytes of the block (R23). -/
theorem desBits_heldIn (b : Block) : HeldIn (desBits b) (readElem b · 0) := by
  have h := heldIn_byte (readElem b · 0)
    |>.append_byte 1 rfl |>.append_byte 2 rfl |>.append_byte 3 rfl |>.append_byte 4 rfl |>.append_byte 5 rfl
    |>.append_byte 6 rfl |>.append_byte 7 rfl
  exact h

/-- `K[k]` is held in the bytes of `KS` from `6k` on (R25). -/
theorem desRoundKey_heldIn (ks : KeyStore) (k : Nat) : HeldIn (desRoundKey ks k) fun m => readElem ks (6 * k + m) 0 := by
  have h := heldIn_byte (fun m => readElem ks (6 * k + m) 0)
    |>.append_byte 1 rfl |>.append_byte 2 rfl |>.append_byte 3 rfl |>.append_byte 4 rfl |>.append_byte 5 rfl
  exact h

/-- Settles O32: the block and a round key are their bytes concatenated, the first byte leftmost. -/
theorem bitStringsInBytes : Obligations.BitStringsInBytes :=
  ⟨desBits_heldIn, fun ks k p _ => desRoundKey_heldIn ks k p⟩

end Sys2Proof.Machine
end

section
/-! SUPPORT. Encoding: descriptors and commands against their words (R91 to R101, R124), the word of a legal step (R93,
R94), the fetch of an illegal word (R95), and hexadecimal text (R110, R111). -/

namespace Sys2Proof.Machine

/-! ## Words and instructions (R91 to R101, R124) -/

theorem encode_of_isStepInstr {i : Instr} (h : isStepInstr i = true) : encode i = .d16 (descOf i) := by
  unfold isStepInstr at h
  unfold descOf
  cases he : encode i with
  | d16 d => rfl
  | c8 c => simp [he] at h

/-- Every instruction decodes from its own word: a step descriptor for every `ROUND`, a command from its code. -/
theorem decode_encode (i : Instr) : decode (encode i) = .ok i := by
  by_cases h : isStepInstr i = true
  · rw [encode_of_isStepInstr h]
    exact decodeD16_descOf i h
  · cases i with
    | ark | sb | sr | mc | isb | isr | imc | desIp | desRnd | desFp => exact absurd rfl h
    | init | run | pause | resume | step | reset => rfl

/-- A word that decodes is the word of what it decodes to. -/
theorem encode_of_decode {w : Encoded} {i : Instr} (h : decode w = .ok i) : encode i = w := by
  cases w with
  | d16 d =>
    obtain ⟨hi, hd⟩ := decodeD16_ok h
    rw [encode_of_isStepInstr hi, hd]
  | c8 c => exact encode_of_decodeC8 h

/-- Settles O1: the two directions, for descriptors through their fields and for commands through their codes. -/
theorem encodeDecodeRoundTrip : Obligations.EncodeDecodeRoundTrip :=
  ⟨decode_encode, fun _ _ => encode_of_decode⟩

/-- A reserved `KIND` is rejected by name (R95). -/
theorem decodeD16_reserved {d : Desc} (h : (kindOf d).toNat = 0 ∨ 0x0B ≤ (kindOf d).toNat) :
    decodeD16 d = .error (.reservedKind (kindOf d)) := by
  unfold decodeD16
  split <;> try omega
  rfl

/-- A word is rejected for its `KIND` alone (R95, R124). -/
theorem kindOf_of_reject {d : Desc} {r : Reject} (h : decodeD16 d = .error r) :
    (kindOf d).toNat = 0 ∨ 0x0B ≤ (kindOf d).toNat := by
  unfold decodeD16 at h
  split at h <;> try cases h
  simp only [imp_false] at *
  omega

/-- A reserved command code is rejected by name (R101). -/
theorem decodeC8_reserved {c : Byte} (h : c.toNat = 0 ∨ 7 ≤ c.toNat) : decodeC8 c = .error (.reservedCommand c) := by
  unfold decodeC8
  split <;> try omega
  rfl

/-- Settles O2: the decoder's own answer on each word written out; the reserved ones by their `KIND` or code. -/
theorem specWordsDecode : Obligations.SpecWordsDecode :=
  ⟨rfl, rfl, rfl, rfl, rfl, rfl, rfl, rfl, rfl, rfl, rfl, rfl, rfl, rfl, rfl, rfl, decodeD16_reserved (by decide),
    decodeD16_reserved (by decide), decodeC8_reserved (by decide), decodeC8_reserved (by decide)⟩

/-! ## Legal words (R93, R94) -/

/-- The table of R93: the algorithm and the `ROUND` range of each `KIND`, for a session of `nr` rounds. -/
def InKindTable (alg : Alg) (nr kind r : Nat) : Prop :=
  (alg = .aes ∧
      ((kind = 1 ∧ r ≤ nr) ∨ ((kind = 2 ∨ kind = 3) ∧ 1 ≤ r ∧ r ≤ nr)
        ∨ ((kind = 4 ∨ kind = 7) ∧ 1 ≤ r ∧ r ≤ nr - 1) ∨ ((kind = 5 ∨ kind = 6) ∧ r ≤ nr - 1)))
    ∨ (alg = .des ∧ (((kind = 8 ∨ kind = 10) ∧ r = 0) ∨ (kind = 9 ∧ r ≤ 15)))

/-- No reserved `KIND` stands in the table. -/
theorem not_inKindTable_of_reserved {alg : Alg} {nr kind r : Nat} (h : kind = 0 ∨ 0x0B ≤ kind) :
    ¬InKindTable alg nr kind r := by
  unfold InKindTable
  omega

/-- A step is legal exactly when the fields of its word stand in the table (R94). -/
theorem legal_iff_inKindTable {ses : Session} {nr : Nat} (hnr : ses.alg = .aes → sNr ses = nr) {i : Instr}
    (hi : isStepInstr i = true) :
    legal ses i = true ↔ InKindTable ses.alg nr (kindOf (descOf i)).toNat (roundOf (descOf i)).toNat := by
  cases i with
  | init | run | pause | resume | step | reset => cases hi
  | ark | sb | sr | mc | isb | isr | imc | desIp | desRnd | desFp =>
    simp +contextual [legal, InKindTable, descOf, encode, kindOf_mkDesc, roundOf_mkDesc, and_assoc, hnr]

/-- A word holds a legal step exactly when its fields stand in the table (R94, R95). -/
theorem legal_word_iff {ses : Session} {nr : Nat} (hnr : ses.alg = .aes → sNr ses = nr) (d : Desc) :
    (∃ i, decodeD16 d = .ok i ∧ legal ses i = true) ↔ InKindTable ses.alg nr (kindOf d).toNat (roundOf d).toNat := by
  cases hd : decodeD16 d with
  | error r =>
    exact iff_of_false (by rintro ⟨_, h, _⟩; cases h) (not_inKindTable_of_reserved (kindOf_of_reject hd))
  | ok i =>
    obtain ⟨hi, rfl⟩ := decodeD16_ok hd
    rw [← legal_iff_inKindTable hnr hi]
    constructor
    · rintro ⟨j, hj, hl⟩
      cases hj
      exact hl
    · exact fun hl => ⟨i, rfl, hl⟩

/-- Settles O3: the table of R93 at 10, 12 or 14 rounds. -/
theorem legalWords : Obligations.LegalWords := by
  intro ses d
  refine legal_word_iff (fun ha => ?_) d
  rw [sNr, ha]
  cases ses.keySize <;> rfl

/-! ## The fetch of an illegal word (R95, R239, R245) -/

/-- The fetch of a word that is no legal step raises `BAD_DESCRIPTOR`, whoever starts the step. -/
theorem runFetched_of_illegal {s : State} (hq : s.qhead.toNat < 56)
    (hd : ∀ i, decodeD16 (readElem s.q s.qhead.toNat 0) = .ok i → legal (sessionOf s) i = false) :
    runFetched s = .next (raise .badDescriptor s) := by
  rcases runFetched_cases s with e | ⟨i, hi, hl, _⟩ | ⟨hq', _⟩
  · exact e
  · rw [hd i hi] at hl
    cases hl
  · omega

/-- What `BAD_DESCRIPTOR` does: `ERR` is 0x31, one `Error` record, `FATAL` set (R306, R310). -/
theorem raise_badDescriptor (s : State) :
    raise .badDescriptor s = { s with err := 0x31, evt := s.evt ++ [.error .badDescriptor], fatal := true } := by
  simp [raise, errorByte, errorKind, errorKindNumber, errorNumber]

/-- A step that raised an error is not held (R245). -/
theorem holdAfterStep_of_fatal {s : State} (hf : s.fatal = true) : holdAfterStep s = s :=
  if_neg fun h => by simp [hf] at h

theorem engineTurn_of_running {s : State} (hr : s.seq = .running) (hf : s.fatal = false) :
    engineTurn s = runFetched s :=
  if_pos (by simp [engineEnabled, hr, hf])

/-- Settles O4: both ways to start a step meet the one fetch, and `STEP` does not hold a failed step. -/
theorem illegalFetchRaises : Obligations.IllegalFetchRaises := by
  refine ⟨fun d => decodeD16_reserved, fun s hq hd => ?_⟩
  have hfetch := runFetched_of_illegal hq hd
  rw [raise_badDescriptor] at hfetch
  constructor
  · intro hr hf
    rw [engineTurn_of_running hr hf, hfetch]
  · intro hl hf hlt
    change execStep s = _
    rw [execStep, if_pos ⟨hl, hf, hlt⟩, runQueued_eq_runFetched, hfetch]
    exact congrArg Host.Outcome.next (holdAfterStep_of_fatal rfl)

/-- Settles O5: the low byte of the written value is a reserved code, and register 0x00 holds nothing to read. -/
theorem reservedCommandsDoNothing : Obligations.ReservedCommandsDoNothing := by
  refine fun s i j v => ⟨fun h => ?_, rfl⟩
  have hc : (BitVec.ofNat 8 v).toNat = v % 256 := BitVec.toNat_ofNat v 8
  change commandWrite v s = _
  rw [commandWrite, decodeC8_reserved (by rwa [hc])]

/-! ## Steps of a session (R92, R94, R241) -/

/-- A legal step finishes with the block of its data path, a function of `KS` and `ST` (R92, R240). -/
theorem exec_of_legal {i : Instr} {s : State} (hl : legal (sessionOf s) i = true) (hq : s.qhead.toNat < 56) :
    exec i s = .next (finishStep (descOf i) (dataPath i s.ks s.st) s) := by
  rw [exec_descriptor (isStepInstr_of_legal hl), atomicStep, if_pos hl, if_pos hq]

/-- Settles O19: the new block is the data path's, which reads `KS` and `ST` only. -/
theorem descriptorSelfContained : Obligations.DescriptorSelfContained := by
  intro i s u hst hks hls hlu hqs hqu
  refine ⟨_, _, exec_of_legal hls hqs, exec_of_legal hlu hqu, ?_⟩
  rw [finishStep_st, finishStep_st, hst, hks]

/-- Settles O41: an enumerated step is legal, so it is a descriptor; the list ends with the terminal one. -/
theorem enumeratedStepsLegal : Obligations.EnumeratedStepsLegal := fun ses =>
  ⟨fun _ hi => ⟨isStepInstr_of_legal (legal_of_mem_stepList hi), legal_of_mem_stepList hi⟩, getLast_stepList ses⟩

/-! ## Hexadecimal text (R110, R111) -/

/-- `hexval` range by range (R110). -/
theorem hexval_eq_some_iff (c v : Byte) : hexval c = some v ↔
    (0x30 ≤ c.toNat ∧ c.toNat ≤ 0x39 ∧ v.toNat = c.toNat - 0x30)
      ∨ (0x41 ≤ c.toNat ∧ c.toNat ≤ 0x46 ∧ v.toNat = c.toNat - 0x41 + 10)
      ∨ (0x61 ≤ c.toNat ∧ c.toNat ≤ 0x66 ∧ v.toNat = c.toNat - 0x61 + 10) := by
  unfold hexval
  split_ifs with hdigit hupper hlower
  · rw [Option.some_inj]
    bv_omega
  · rw [Option.some_inj]
    bv_omega
  · rw [Option.some_inj]
    bv_omega
  · exact iff_of_false (by simp) (by omega)

theorem hexval_lt {c v : Byte} (h : hexval c = some v) : v.toNat < 16 := by
  have := (hexval_eq_some_iff c v).mp h
  omega

/-- The character of a nibble has the nibble's value (R110, R111). -/
theorem hexval_hexchar (v : BitVec 4) : hexval (hexchar v) = some (v.setWidth 8) := by
  revert v; decide

/-- A pair of characters gives its byte, the first the high nibble (R110). -/
theorem hexByte_toNat {buf : Vector Byte Config.bufcap} {m : Nat} {a b : Byte}
    (ha : hexval (readElem buf (2 * m) 0) = some a) (hb : hexval (readElem buf (2 * m + 1) 0) = some b) :
    (hexByte buf m).toNat = 16 * a.toNat + b.toNat := by
  have ha16 := hexval_lt ha
  have hb16 := hexval_lt hb
  rw [hexByte, ha, hb, Option.getD_some, Option.getD_some]
  bv_omega

theorem length_hexText (xs : List Byte) : (hexText xs).length = 2 * xs.length := by
  rw [hexText, List.length_flatMap]
  simp [Nat.mul_comm]

/-- Byte `m` of a text is written at places `2m` and `2m + 1`, its high nibble first (R111). -/
theorem hexText_getD {xs : List Byte} {m : Nat} (hm : m < xs.length) :
    (hexText xs).getD (2 * m) 0 = hexchar (xs[m].extractLsb' 4 4)
      ∧ (hexText xs).getD (2 * m + 1) 0 = hexchar (xs[m].extractLsb' 0 4) := by
  induction xs generalizing m with
  | nil => cases hm
  | cons x xs ih =>
    cases m with
    | zero => exact ⟨rfl, rfl⟩
    | succ m => exact ih (Nat.lt_of_succ_lt_succ hm)

/-- A byte is sixteen times its high nibble and its low nibble. -/
theorem toNat_nibbles (x : Byte) :
    16 * ((x.extractLsb' 4 4).setWidth 8).toNat + ((x.extractLsb' 0 4).setWidth 8).toNat = x.toNat := by
  revert x; decide +kernel

/-- A buffer that holds the text of some bytes gives each of them back (R110, R111). -/
theorem hexByte_of_holds {xs : List Byte} {buf : Vector Byte Config.bufcap} (h : Holds buf (hexText xs)) {m : Nat}
    (hm : m < xs.length) : hexByte buf m = xs[m] := by
  have hlen := length_hexText xs
  obtain ⟨hhigh, hlow⟩ := hexText_getD hm
  have ha := hexval_hexchar (xs[m].extractLsb' 4 4)
  have hb := hexval_hexchar (xs[m].extractLsb' 0 4)
  rw [← hhigh, ← h (2 * m) (by omega)] at ha
  rw [← hlow, ← h (2 * m + 1) (by omega)] at hb
  exact BitVec.eq_of_toNat_eq ((hexByte_toNat ha hb).trans (toNat_nibbles xs[m]))

theorem length_parseBytes (buf : Vector Byte Config.bufcap) (n : Nat) : (parseBytes buf n).length = n := by
  simp [parseBytes]

theorem getElem_parseBytes (buf : Vector Byte Config.bufcap) {n m : Nat} (h : m < (parseBytes buf n).length) :
    (parseBytes buf n)[m] = hexByte buf m := by
  simp [parseBytes]

/-- Settles O48: the values of `hexval`, the byte of a pair, and the text of bytes read back byte by byte. -/
theorem hexText_parses : Obligations.HexText := by
  refine ⟨hexval_eq_some_iff, fun buf n m a b hm ha hb => ?_, fun xs buf _ h => ?_⟩
  · have hlt : m < (parseBytes buf n).length := by rwa [length_parseBytes]
    rw [List.getD_eq_getElem _ _ hlt, getElem_parseBytes, hexByte_toNat ha hb]
  · refine List.ext_getElem (length_parseBytes buf xs.length) fun m _ hm => ?_
    rw [getElem_parseBytes, hexByte_of_holds h hm]

end Sys2Proof.Machine
end

section
/-! SUPPORT. The field of `gfMultiply` (R131, R132, R142). -/

namespace Sys2Proof.Machine

/-! ## `gfMultiply` as arithmetic in GF(2^8) (R131, R132) -/

/-- What one turn of the loop of R131 makes of `a`: shifted left, and reduced by 0x11B. -/
def gfDouble (a : Byte) : Byte := if a.getLsbD 7 then (a <<< 1) ^^^ 0x1B else a <<< 1

theorem xor_ite_zero (p : Prop) [Decidable p] (x y : Byte) : (x ^^^ if p then y else 0) = if p then x ^^^ y else x := by
  split
  · rfl
  · exact BitVec.xor_zero

theorem ite_xor_zero (p : Prop) [Decidable p] (x y : Byte) :
    (if p then x ^^^ y else 0) = (if p then x else 0) ^^^ if p then y else 0 := by
  split
  · rfl
  · exact BitVec.xor_zero.symm

/-- What doubling adds to the shifted byte when the bit shifted out is `c`. -/
def gfReduction (c : Bool) : Byte := if c then 0x1B else 0

theorem gfDouble_eq_xor (a : Byte) : gfDouble a = (a <<< 1) ^^^ gfReduction (a.getLsbD 7) :=
  (xor_ite_zero _ _ _).symm

theorem gfReduction_xor (c d : Bool) : gfReduction (c ^^ d) = gfReduction c ^^^ gfReduction d := by
  revert c d; decide

/-- Doubling is additive: shift and reduction both are. -/
theorem gfDouble_xor (a b : Byte) : gfDouble (a ^^^ b) = gfDouble a ^^^ gfDouble b := by
  simp only [gfDouble_eq_xor, BitVec.shiftLeft_xor_distrib, BitVec.getLsbD_xor, gfReduction_xor]
  ac_rfl

theorem gfLoop_succ (k : Nat) (acc a b : Byte) :
    gfLoop (k + 1) acc a b = gfLoop k (acc ^^^ if b.getLsbD 0 then a else 0) (gfDouble a) (b >>> 1) := by
  rw [xor_ite_zero]
  rfl

/-- The loop adds to its accumulator the doublings of `a` at the set bits of `b`. -/
theorem gfLoop_eq_foldl (k : Nat) (acc a b : Byte) :
    gfLoop k acc a b
      = ((List.range k).map fun n => if b.getLsbD n then gfDouble^[n] a else 0).foldl (fun x y => x ^^^ y) acc := by
  induction k generalizing acc a b with
  | zero => rfl
  | succ k ih =>
    simp [gfLoop_succ, ih, List.range_succ_eq_map, Function.comp_def, Nat.add_comm 1]

theorem gfLoop_xor (k : Nat) (acc acc' a a' b : Byte) :
    gfLoop k (acc ^^^ acc') (a ^^^ a') b = gfLoop k acc a b ^^^ gfLoop k acc' a' b := by
  induction k generalizing acc acc' a a' b with
  | zero => rfl
  | succ k ih =>
    rw [gfLoop_succ, gfLoop_succ, gfLoop_succ, gfDouble_xor, ← ih, ite_xor_zero]
    ac_rfl

theorem map_zero_of_map_xor {f : Byte → Byte} (hxor : ∀ a b, f (a ^^^ b) = f a ^^^ f b) : f 0 = 0 := by
  simpa using hxor 0 0

/-- An additive map that commutes with doubling passes through the loop. -/
theorem map_gfLoop {f : Byte → Byte} (hxor : ∀ a b, f (a ^^^ b) = f a ^^^ f b)
    (hdouble : ∀ a, f (gfDouble a) = gfDouble (f a)) (k : Nat) (acc a b : Byte) :
    f (gfLoop k acc a b) = gfLoop k (f acc) (f a) b := by
  induction k generalizing acc a b with
  | zero => rfl
  | succ k ih => rw [gfLoop_succ, gfLoop_succ, ih, hxor, hdouble, apply_ite f, map_zero_of_map_xor hxor]

theorem map_gfMultiply {f : Byte → Byte} (hxor : ∀ a b, f (a ^^^ b) = f a ^^^ f b)
    (hdouble : ∀ a, f (gfDouble a) = gfDouble (f a)) (a b : Byte) :
    f (gfMultiply a b) = gfMultiply (f a) b := by
  rw [gfMultiply, map_gfLoop hxor hdouble, map_zero_of_map_xor hxor, gfMultiply]

theorem gfMultiply_xor_left (a b c : Byte) : gfMultiply (a ^^^ b) c = gfMultiply a c ^^^ gfMultiply b c :=
  gfLoop_xor 8 0 0 a b c

theorem gfMultiply_gfDouble_left (a b : Byte) : gfMultiply (gfDouble a) b = gfDouble (gfMultiply a b) :=
  (map_gfMultiply gfDouble_xor (fun _ => rfl) a b).symm

theorem gfMultiply_one_left (b : Byte) : gfMultiply 1 b = b := by
  revert b; decide +kernel

/-- Two factors may be exchanged: the product by `c` is additive and commutes with doubling. -/
theorem gfMultiply_right_comm (a b c : Byte) : gfMultiply (gfMultiply a b) c = gfMultiply (gfMultiply a c) b :=
  map_gfMultiply (f := (gfMultiply · c)) (gfMultiply_xor_left · · c) (gfMultiply_gfDouble_left · c) a b

theorem gfMultiply_comm (a b : Byte) : gfMultiply a b = gfMultiply b a := by
  rw [← gfMultiply_one_left a, gfMultiply_right_comm, gfMultiply_one_left, gfMultiply_one_left]

theorem gfMultiply_assoc (a b c : Byte) : gfMultiply (gfMultiply a b) c = gfMultiply a (gfMultiply b c) := by
  rw [gfMultiply_comm a b, gfMultiply_right_comm, gfMultiply_comm]

theorem gfMultiply_xor_right (a b c : Byte) : gfMultiply a (b ^^^ c) = gfMultiply a b ^^^ gfMultiply a c := by
  rw [gfMultiply_comm, gfMultiply_xor_left, gfMultiply_comm b, gfMultiply_comm c]

theorem gfMultiply_one_right (a : Byte) : gfMultiply a 1 = a := by
  rw [gfMultiply_comm, gfMultiply_one_left]

theorem gfMultiply_zero_right (a : Byte) : gfMultiply a 0 = 0 := by
  simpa using gfMultiply_xor_right a 0 0

/-- The power `a^254`, by `127 = 1111111` in binary and one more squaring: the inverse of a non-zero byte (R142). -/
def gfInverse (a : Byte) : Byte :=
  let p := (fun x => gfMultiply (gfMultiply x x) a)^[6] a
  gfMultiply p p

theorem gfMultiply_gfInverse {a : Byte} (ha : a ≠ 0) : gfMultiply a (gfInverse a) = 1 := by
  revert a; decide +kernel

theorem eq_of_gfMultiply_eq_one {a x y : Byte} (hx : gfMultiply a x = 1) (hy : gfMultiply a y = 1) : y = x := by
  calc
    y = gfMultiply (gfMultiply a x) y := by rw [hx, gfMultiply_one_left]
    _ = gfMultiply (gfMultiply a y) x := gfMultiply_right_comm a x y
    _ = x := by rw [hy, gfMultiply_one_left]

/-- Settles O30: products commute because the product by `c` is additive and commutes with doubling; the inverse is the
254th power. -/
theorem gfMultiplyLaws : Obligations.GfMultiplyLaws :=
  ⟨fun a b => gfLoop_eq_foldl 8 0 a b, fun a => ⟨gfMultiply_one_right a, gfMultiply_zero_right a⟩, gfMultiply_comm,
    gfMultiply_xor_right, gfMultiply_assoc,
    fun a ha => ⟨gfInverse a, gfMultiply_gfInverse ha, fun _ => eq_of_gfMultiply_eq_one (gfMultiply_gfInverse ha)⟩,
    by decide⟩

/-! ## The AES S-boxes (R140 to R142) -/

theorem invSbox_sbox (x : Byte) : invSbox (sbox x) = x := by
  revert x; decide +kernel

theorem sbox_invSbox (x : Byte) : sbox (invSbox x) = x := by
  revert x; decide +kernel

/-- The affine step of R142 on the field inverse. -/
def sboxAffine (y : Byte) : Byte :=
  y ^^^ y.rotateLeft 1 ^^^ y.rotateLeft 2 ^^^ y.rotateLeft 3 ^^^ y.rotateLeft 4 ^^^ 0x63

theorem sbox_eq_sboxAffine (x : Byte) : sbox x = sboxAffine (gfInverse x) := by
  revert x; decide +kernel

/-- Settles O33: the tables against each other, and `SBOX` as the affine step of the 254th power. -/
theorem sboxInverse : Obligations.SboxInverse := by
  refine ⟨invSbox_sbox, sbox_invSbox, by decide, by decide, by decide, by decide, by decide, by decide,
    fun x => ⟨gfInverse x, ?_, sbox_eq_sboxAffine x⟩⟩
  rcases eq_or_ne x 0 with rfl | hx
  · exact .inl ⟨rfl, by decide⟩
  · exact .inr (gfMultiply_gfInverse hx)

end Sys2Proof.Machine
end

section
/-! SUPPORT. The primitives on bit-strings (R133 to R135) and the DES steps that invert each other (R151, R214). -/

namespace Sys2Proof.Machine

/-! ## Bit-strings position by position (R10, R133 to R135) -/

theorem eq_of_bitAt {n : Nat} {x y : BitVec n} (h : ∀ p, 1 ≤ p → p ≤ n → bitAt x p = bitAt y p) : x = y :=
  BitVec.eq_of_getMsbD_eq fun i hi => h (i + 1) (by omega) hi

theorem ofBits_concat (m : Nat) (bs : List Bool) (b : Bool) :
    ofBits m (bs ++ [b]) = (ofBits m bs <<< 1) ||| (BitVec.ofBool b).setWidth m := by
  simp [ofBits]

/-- The last bit listed is bit 0. -/
theorem getLsbD_ofBits {m i : Nat} (bs : List Bool) (hi : i < m) :
    (ofBits m bs).getLsbD i = bs.reverse.getD i false := by
  induction bs using List.reverseRecOn generalizing i with
  | nil => simp [ofBits]
  | append_singleton bs b ih =>
    rw [ofBits_concat, BitVec.getLsbD_or, BitVec.getLsbD_shiftLeft]
    cases i with
    | zero => simp [hi]
    | succ i => simp [hi, ih (Nat.lt_of_succ_lt hi)]

/-- Position `j` is the bit listed at place `j`, counted from 1. -/
theorem bitAt_ofBits {m : Nat} {bs : List Bool} (hlen : bs.length = m) {j : Nat} (hj : 1 ≤ j) (hjm : j ≤ m) (d : Bool) :
    bitAt (ofBits m bs) j = bs.getD (j - 1) d := by
  subst hlen
  rw [bitAt, BitVec.getMsbD_eq_getLsbD, getLsbD_ofBits bs (by omega), List.getD_reverse _ (by omega),
    decide_eq_true (by omega), Bool.true_and, show bs.length - 1 - (bs.length - 1 - (j - 1)) = j - 1 by omega,
    List.getD_eq_getElem _ _ (by omega), List.getD_eq_getElem _ _ (by omega)]

theorem bitAt_permute {n m : Nat} (x : BitVec n) {table : List Nat} (hlen : table.length = m) {j : Nat} (hj : 1 ≤ j)
    (hjm : j ≤ m) : bitAt (permute m x table) j = bitAt x (table.getD (j - 1) 0) := by
  rw [permute, bitAt_ofBits (by rw [List.length_map, hlen]) hj hjm (bitAt x 0), List.getD_map]

theorem bitAt_xorBits {n : Nat} (a b : BitVec n) (j : Nat) : bitAt (xorBits a b) j = (bitAt a j ^^ bitAt b j) :=
  BitVec.getMsbD_xor

theorem bitAt_leftRotate {m : Nat} (x : BitVec m) (n : Nat) {j : Nat} (hj : 1 ≤ j) (hjm : j ≤ m) :
    bitAt (leftRotate x n) j = bitAt x ((j - 1 + n) % m + 1) := by
  rw [bitAt, leftRotate, BitVec.getMsbD_rotateLeft, decide_eq_true (by omega), Bool.true_and, Nat.add_comm n, bitAt,
    Nat.add_sub_cancel]

/-- Settles O31: a permuted bit is the bit its table names. -/
theorem bitPrimitives : Obligations.BitPrimitives :=
  ⟨fun _ _ x _ hlen _ _ => bitAt_permute x hlen, fun _ a b j _ _ => bitAt_xorBits a b j,
    fun _ n x _ => bitAt_leftRotate x n⟩

/-! ## The DES steps undone (R151, R214) -/

/-- A permutation is undone by a table whose entries name the places where the first table put the positions. -/
theorem permute_permute {n : Nat} (x : BitVec n) {t u : List Nat} (ht : t.length = n) (hu : u.length = n)
    (hinv : ∀ i, i < n → (1 ≤ u.getD i 0 ∧ u.getD i 0 ≤ n) ∧ t.getD (u.getD i 0 - 1) 0 = i + 1) :
    permute n (permute n x t) u = x := by
  refine eq_of_bitAt fun p hp hpn => ?_
  obtain ⟨⟨hlow, hhigh⟩, hback⟩ := hinv (p - 1) (by omega)
  rw [bitAt_permute _ hu hp hpn, bitAt_permute x ht hlow hhigh, hback, Nat.sub_add_cancel hp]

theorem permute_fp_permute_ip (x : BitVec 64) : permute 64 (permute 64 x ipTable) fpTable = x :=
  permute_permute x rfl rfl (by decide)

theorem permute_ip_permute_fp (x : BitVec 64) : permute 64 (permute 64 x fpTable) ipTable = x :=
  permute_permute x rfl rfl (by decide)

theorem xorBits_xorBits_cancel {n : Nat} (x y : BitVec n) : xorBits (xorBits x y) y = x := by
  rw [xorBits, xorBits, BitVec.xor_assoc, BitVec.xor_self, BitVec.xor_zero]

@[simp] theorem leftHalf_feistelRound (k : BitVec 48) (b : BitVec 64) : leftHalf (feistelRound k b) = rightHalf b :=
  leftHalf_append _ _

@[simp] theorem rightHalf_feistelRound (k : BitVec 48) (b : BitVec 64) :
    rightHalf (feistelRound k b) = xorBits (leftHalf b) (feistelF (rightHalf b) k) :=
  rightHalf_append _ _

/-- Settles O35: the two tables name each other's places, and a round keeps the half its function reads. -/
theorem desStepsInvert : Obligations.DesStepsInvert := by
  refine ⟨fun x => ⟨permute_fp_permute_ip x, permute_ip_permute_fp x⟩, fun k b => ⟨?_, ?_⟩⟩
  · exact (leftHalf_feistelRound k b).symm
  · rw [leftHalf_feistelRound, rightHalf_feistelRound, xorBits_xorBits_cancel]

/-! ## The tables (R143, R150 to R157) -/

/-- Settles O34: table by table, in the order of the rules. -/
theorem tableShapes : Obligations.TableShapes := by
  refine ⟨⟨rfl, ?rcon⟩, ⟨rfl, ?ip⟩, ⟨rfl, ?p⟩, ⟨rfl, ?e⟩, ⟨rfl, ?pc1⟩, ⟨rfl, ?pc2⟩, ⟨rfl, rfl, ?shifts⟩, ?sdes⟩
  case rcon => decide
  case ip => decide
  case p => decide
  case e => decide
  case pc1 => decide
  case pc2 => decide
  case shifts => decide
  case sdes => decide

end Sys2Proof.Machine
end

section
/-! SUPPORT. The two key schedules word by word and round by round (R172, R180 to R182). -/

namespace Sys2Proof.Machine

/-! ## The AES key expansion (R172) -/

/-- The expansion only appends. -/
theorem getD_expandWords_of_lt {nk k i : Nat} {w : List AesWord} (hi : i < w.length) :
    (expandWords nk k w).getD i zeroWord = w.getD i zeroWord := by
  induction k generalizing w with
  | zero => rfl
  | succ k ih =>
    have hi' : i < (w ++ [nextWord nk w]).length := by rw [List.length_append]; omega
    rw [expandWords, ih hi', List.getD_append _ _ _ _ hi]

/-- The first word appended stands after the words so far. -/
theorem getD_expandWords_length (nk k : Nat) (w : List AesWord) :
    (expandWords nk (k + 1) w).getD w.length zeroWord = nextWord nk w := by
  rw [expandWords, getD_expandWords_of_lt (by simp), List.getD_append_right _ _ _ _ le_rfl, Nat.sub_self,
    List.getD_cons_zero]

/-- Every word appended is the one before it, changed by `scheduleTemp`, XOR the one `nk` places before (R172). -/
theorem getD_expandWords {nk k i : Nat} {w : List AesWord} (hnk : 0 < nk) (hw : 0 < w.length) (hlow : w.length ≤ i)
    (hhigh : i < w.length + k) :
    (expandWords nk k w).getD i zeroWord
      = xorWord ((expandWords nk k w).getD (i - nk) zeroWord)
          (scheduleTemp nk i ((expandWords nk k w).getD (i - 1) zeroWord)) := by
  induction k generalizing w with
  | zero => omega
  | succ k ih =>
    rcases Nat.eq_or_lt_of_le hlow with rfl | hlt
    · rw [getD_expandWords_length, getD_expandWords_of_lt (Nat.sub_lt hw hnk),
        getD_expandWords_of_lt (Nat.sub_lt hw Nat.one_pos), nextWord]
    · have hlen : (w ++ [nextWord nk w]).length = w.length + 1 := List.length_append
      exact ih (by omega) (by omega) (by omega)

theorem length_keyWords (key : List Byte) (nk : Nat) : (keyWords key nk).length = nk := by simp [keyWords]

theorem getElem_keyWords (key : List Byte) {nk i : Nat} (hi : i < nk) (j : Fin 4) :
    ((keyWords key nk).getD i zeroWord)[j] = key.getD (4 * i + j.val) 0 := by
  rw [List.getD_eq_getElem _ _ (by rwa [length_keyWords])]
  fin_cases j <;> simp [keyWords]

/-- Byte `j` of word `i` is byte `4i + j` of `KS` (R172). -/
theorem readElem_storeWords (w : List AesWord) {i : Nat} (hi : i < 60) (j : Fin 4) :
    readElem (storeWords w) (4 * i + j.val) 0 = (w.getD i zeroWord)[j] := by
  have hn : 4 * i + j.val < 240 := by omega
  have hdiv : (4 * i + j.val) / 4 = i := by omega
  have hmod : (4 * i + j.val) % 4 = j.val := by omega
  rw [storeWords, readElem_ofFn, dif_pos hn]
  simp only [hdiv, hmod]
  rfl

/-- Settles O38: the root words stay in front, each later word is appended by the recurrence, and the store holds the
words and then zeros. -/
theorem aesKeyExpansion : Obligations.AesKeyExpansion := by
  intro key nk hnk _ w last
  have hlen : (aesSchedule key nk).length = last := length_aesSchedule key nk
  have hroot := length_keyWords key nk
  refine ⟨hlen, fun i hi j => ?_, fun i hlow hhigh => ?_, fun i hi j => ?_⟩
  · rw [← getElem_keyWords key hi j]
    exact congrArg (·[j]) (getD_expandWords_of_lt (by rwa [hroot]))
  · exact getD_expandWords (by omega) (by omega) (by omega) (by omega)
  · split
    · exact readElem_storeWords _ hi j
    · exact readElem_storeWords_ge (by omega) (by omega)

/-! ## The DES key schedule (R180 to R182) -/

/-- A table in two parts gives the concatenation of what its parts give. -/
theorem permute_append {n m k : Nat} (x : BitVec n) {t u : List Nat} (ht : t.length = m) (hu : u.length = k) :
    permute (m + k) x (t ++ u) = permute m x t ++ permute k x u := by
  refine eq_of_bitAt fun p hp hpn => ?_
  rw [bitAt_permute x (by rw [List.length_append, ht, hu]) hp hpn, bitAt_append _ _ hp]
  split
  · rw [bitAt_permute x ht hp (by omega), List.getD_append _ _ _ _ (by omega)]
  · rw [bitAt_permute x hu (by omega) (by omega), List.getD_append_right _ _ _ _ (by omega), ht, Nat.sub_right_comm]

/-- A permutation reads only the positions its table names. -/
theorem permute_congr {n m : Nat} {a b : BitVec n} {table : List Nat} (h : ∀ p ∈ table, bitAt a p = bitAt b p) :
    permute m a table = permute m b table :=
  congrArg (ofBits m) (List.map_congr_left h)

theorem leftRotate_leftRotate {m : Nat} (x : BitVec m) (a b : Nat) :
    leftRotate (leftRotate x a) b = leftRotate x (a + b) := by
  refine eq_of_bitAt fun p hp hpm => ?_
  have hmid : (p - 1 + b) % m + 1 ≤ m := Nat.mod_lt _ (by omega)
  rw [bitAt_leftRotate _ b hp hpm, bitAt_leftRotate x a (by omega) hmid,
    bitAt_leftRotate x (a + b) hp hpm, Nat.add_sub_cancel, Nat.mod_add_mod, Nat.add_assoc, Nat.add_comm b]

/-- `PC1` fills `C` by its first half and `D` by its second (R180). -/
theorem permute_pc1 (key : BitVec 64) :
    permute 56 key pc1Table = permute 28 key (pc1Table.take 28) ++ permute 28 key (pc1Table.drop 28) := by
  have h := permute_append (m := 28) (k := 28) key (t := pc1Table.take 28) (u := pc1Table.drop 28) rfl rfl
  rwa [List.take_append_drop] at h

theorem desSchedule_eq_desKeysFrom (key : BitVec 64) :
    desSchedule key
      = desKeysFrom shiftsTable (permute 28 key (pc1Table.take 28)) (permute 28 key (pc1Table.drop 28)) := by
  simp only [desSchedule, permute_pc1]
  rw [extract_append_high, extract_append_low]

/-- Key `k` is made from halves rotated by the counts up to its round (R180). -/
theorem getD_desKeysFrom (ns : List Nat) (c d : BitVec 28) {k : Nat} (hk : k < ns.length) :
    (desKeysFrom ns c d).getD k 0
      = permute 48 (leftRotate c (ns.take (k + 1)).sum ++ leftRotate d (ns.take (k + 1)).sum) pc2Table := by
  induction ns generalizing c d k with
  | nil => cases hk
  | cons n ns ih =>
    cases k with
    | zero => simp [desKeysFrom]
    | succ k =>
      rw [desKeysFrom, List.getD_cons_succ, ih _ _ (Nat.lt_of_succ_lt_succ hk), leftRotate_leftRotate,
        leftRotate_leftRotate, List.take_succ_cons, List.sum_cons]

/-- Byte `m` of key `k` is byte `6k + m` of `KS` (R180). -/
theorem readElem_storeDesKeys (keys : List (BitVec 48)) {k m : Nat} (hk : k < 40) (hm : m < 6) :
    readElem (storeDesKeys keys) (6 * k + m) 0 = (keys.getD k 0).extractLsb' (40 - 8 * m) 8 := by
  have hn : 6 * k + m < 240 := by omega
  have hdiv : (6 * k + m) / 6 = k := by omega
  have hmod : (6 * k + m) % 6 = m := by omega
  rw [storeDesKeys, readElem_ofFn, dif_pos hn]
  simp only [hdiv, hmod]

/-- A round reads from `KS` the key stored there (R66, R180). -/
theorem desRoundKey_storeDesKeys (keys : List (BitVec 48)) {k : Nat} (hk : k < 40) :
    desRoundKey (storeDesKeys keys) k = keys.getD k 0 := by
  refine eq_of_bitAt fun p hp hpn => ?_
  have hheld : bitAt (desRoundKey (storeDesKeys keys) k) p
      = (readElem (storeDesKeys keys) (6 * k + (p - 1) / 8) 0).getLsbD (7 - (p - 1) % 8) :=
    desRoundKey_heldIn _ k p hp hpn
  have hplace : 40 - 8 * ((p - 1) / 8) + (7 - (p - 1) % 8) = 48 - 1 - (p - 1) := by omega
  rw [hheld, readElem_storeDesKeys keys hk (by omega), BitVec.getLsbD_extractLsb', hplace,
    bitAt, BitVec.getMsbD_eq_getLsbD, decide_eq_true (by omega), decide_eq_true (by omega)]

/-- `PC1` names no parity position, so the keys do not depend on the parity bits (R182). -/
theorem desSchedule_congr {a b : BitVec 64}
    (h : ∀ p, 1 ≤ p → p ≤ 64 → p % 8 ≠ 0 → bitAt a p = bitAt b p) : desSchedule a = desSchedule b := by
  have hpc1 : ∀ p ∈ pc1Table, 1 ≤ p ∧ p ≤ 64 ∧ p % 8 ≠ 0 := by decide
  have hcd : permute 56 a pc1Table = permute 56 b pc1Table := permute_congr fun p hp => by
    obtain ⟨hlow, hhigh, hparity⟩ := hpc1 p hp
    exact h p hlow hhigh hparity
  rw [desSchedule, desSchedule, hcd]

/-- Settles O39: a key is its halves rotated round after round, laid out in six bytes; `PC1` drops the parity bits. -/
theorem desKeySchedule : Obligations.DesKeySchedule := by
  refine ⟨fun key => ⟨length_desSchedule key, fun k hk => ⟨?_, ?_⟩, fun n hlow hn => ?_⟩, fun _ _ => desSchedule_congr,
    by decide +kernel, by decide +kernel, by decide +kernel⟩
  · rw [desSchedule_eq_desKeysFrom]
    exact getD_desKeysFrom shiftsTable _ _ hk
  · exact desRoundKey_storeDesKeys _ (by omega)
  · exact readElem_storeDesKeys_ge hn (by rwa [length_desSchedule])

end Sys2Proof.Machine
end

section
/-! SUPPORT. The data paths of the AES steps: what each leaves in a byte or a cell (R192 to R198), and the pairs that
undo each other (R202). -/

namespace Sys2Proof.Machine

/-! ## Cells and bytes of the new block (R22, R192 to R198) -/

theorem readElem_cell (b : Block) (i c : Fin 4) : readElem b (4 * c.val + i.val) 0 = cell b i c :=
  readElem_of_lt b 0 _

theorem readElem_addRoundKey (ks : KeyStore) (r : Nat) (b : Block) {n : Nat} (hn : n < 16) :
    readElem (addRoundKey ks r b) n 0 = readElem b n 0 ^^^ readElem ks (16 * r + n) 0 := by
  rw [addRoundKey, readElem_ofFn, dif_pos hn, readElem_of_lt b 0 hn, aesRoundKey]
  simp

theorem readElem_subBytes (b : Block) {n : Nat} (hn : n < 16) : readElem (subBytes b) n 0 = sbox (readElem b n 0) := by
  rw [subBytes, readElem_ofFn, dif_pos hn, readElem_of_lt b 0 hn]
  rfl

theorem readElem_invSubBytes (b : Block) {n : Nat} (hn : n < 16) :
    readElem (invSubBytes b) n 0 = invSbox (readElem b n 0) := by
  rw [invSubBytes, readElem_ofFn, dif_pos hn, readElem_of_lt b 0 hn]
  rfl

@[simp] theorem cell_subBytes (b : Block) (i c : Fin 4) : cell (subBytes b) i c = sbox (cell b i c) := by
  rw [← readElem_cell, ← readElem_cell, readElem_subBytes b (by omega)]

@[simp] theorem cell_invSubBytes (b : Block) (i c : Fin 4) : cell (invSubBytes b) i c = invSbox (cell b i c) := by
  rw [← readElem_cell, ← readElem_cell, readElem_invSubBytes b (by omega)]

@[simp] theorem cell_shiftRows (b : Block) (i c : Fin 4) : cell (shiftRows b) i c = cell b i (c + i) :=
  cell_ofCells _ i c

@[simp] theorem cell_invShiftRows (b : Block) (i c : Fin 4) : cell (invShiftRows b) i c = cell b i (c - i) :=
  cell_ofCells _ i c

/-! ## Columns multiplied by a matrix over GF(2^8) (R195, R198) -/

/-- `XOR over k of f k`, the sum of R195 and R198. -/
def xorSum (f : Fin 4 → Byte) : Byte := f 0 ^^^ f 1 ^^^ f 2 ^^^ f 3

@[simp] theorem cell_mulColumns (m : Fin 4 → Fin 4 → Byte) (b : Block) (i c : Fin 4) :
    cell (mulColumns m b) i c = xorSum fun k => gfMultiply (cell b k c) (m i k) :=
  cell_ofCells _ i c

/-- Byte `4c + i` of the new block is the sum of R195 over the bytes of column `c`. -/
theorem readElem_mulColumns (m : Fin 4 → Fin 4 → Byte) (b : Block) (i : Fin 4) {c : Nat} (hc : c < 4) :
    readElem (mulColumns m b) (4 * c + i.val) 0
      = xorSum fun k => gfMultiply (readElem b (4 * c + k.val) 0) (m i k) := by
  have hcell := cell_mulColumns m b i ⟨c, hc⟩
  simp only [← readElem_cell] at hcell
  exact hcell

theorem gfMultiply_xorSum_left (f : Fin 4 → Byte) (a : Byte) :
    gfMultiply (xorSum f) a = xorSum fun k => gfMultiply (f k) a := by
  simp only [xorSum, gfMultiply_xor_left]

theorem gfMultiply_xorSum_right (a : Byte) (f : Fin 4 → Byte) :
    gfMultiply a (xorSum f) = xorSum fun k => gfMultiply a (f k) := by
  simp only [xorSum, gfMultiply_xor_right]

theorem xorSum_comm (f : Fin 4 → Fin 4 → Byte) :
    (xorSum fun k => xorSum fun j => f k j) = xorSum fun j => xorSum fun k => f k j := by
  simp only [xorSum]
  ac_rfl

/-- The product of two matrices over GF(2^8). -/
def gfMatMul (n m : Fin 4 → Fin 4 → Byte) (i j : Fin 4) : Byte := xorSum fun k => gfMultiply (m k j) (n i k)

/-- The unit matrix. -/
def gfUnit (i j : Fin 4) : Byte := if i = j then 1 else 0

theorem mulColumns_mulColumns (n m : Fin 4 → Fin 4 → Byte) (b : Block) :
    mulColumns n (mulColumns m b) = mulColumns (gfMatMul n m) b := by
  refine eq_of_cell _ _ fun i c => ?_
  calc cell (mulColumns n (mulColumns m b)) i c
      = xorSum fun k => xorSum fun j => gfMultiply (cell b j c) (gfMultiply (m k j) (n i k)) := by
        simp only [cell_mulColumns, gfMultiply_xorSum_left, gfMultiply_assoc]
    _ = xorSum fun j => xorSum fun k => gfMultiply (cell b j c) (gfMultiply (m k j) (n i k)) := xorSum_comm _
    _ = cell (mulColumns (gfMatMul n m) b) i c := by
        simp only [cell_mulColumns, gfMatMul, gfMultiply_xorSum_right]

theorem gfMultiply_gfUnit (x : Byte) (i j : Fin 4) : gfMultiply x (gfUnit i j) = if i = j then x else 0 := by
  rw [gfUnit, apply_ite (gfMultiply x), gfMultiply_one_right, gfMultiply_zero_right]

theorem mulColumns_gfUnit (b : Block) : mulColumns gfUnit b = b := by
  refine eq_of_cell _ _ fun i c => ?_
  simp only [cell_mulColumns, gfMultiply_gfUnit, xorSum]
  fin_cases i <;> simp

theorem gfMatMul_invMds_mds : gfMatMul invMds mds = gfUnit := by
  funext i j
  revert i j
  decide

theorem gfMatMul_mds_invMds : gfMatMul mds invMds = gfUnit := by
  funext i j
  revert i j
  decide

/-! ## The inverse pairs and the commutations (R202) -/

theorem addRoundKey_addRoundKey (ks : KeyStore) (r : Nat) (b : Block) :
    addRoundKey ks r (addRoundKey ks r b) = b := by
  refine eq_of_readElem _ _ 0 fun n hn => ?_
  rw [readElem_addRoundKey _ _ _ hn, readElem_addRoundKey _ _ _ hn, BitVec.xor_assoc, BitVec.xor_self, BitVec.xor_zero]

theorem invSubBytes_subBytes (b : Block) : invSubBytes (subBytes b) = b :=
  eq_of_cell _ _ fun i c => by rw [cell_invSubBytes, cell_subBytes, invSbox_sbox]

theorem subBytes_invSubBytes (b : Block) : subBytes (invSubBytes b) = b :=
  eq_of_cell _ _ fun i c => by rw [cell_subBytes, cell_invSubBytes, sbox_invSbox]

theorem invShiftRows_shiftRows (b : Block) : invShiftRows (shiftRows b) = b :=
  eq_of_cell _ _ fun i c => by rw [cell_invShiftRows, cell_shiftRows, sub_add_cancel]

theorem shiftRows_invShiftRows (b : Block) : shiftRows (invShiftRows b) = b :=
  eq_of_cell _ _ fun i c => by rw [cell_shiftRows, cell_invShiftRows, add_sub_cancel_right]

theorem invMixColumns_mixColumns (b : Block) : invMixColumns (mixColumns b) = b := by
  rw [invMixColumns, mixColumns, mulColumns_mulColumns, gfMatMul_invMds_mds, mulColumns_gfUnit]

theorem mixColumns_invMixColumns (b : Block) : mixColumns (invMixColumns b) = b := by
  rw [invMixColumns, mixColumns, mulColumns_mulColumns, gfMatMul_mds_invMds, mulColumns_gfUnit]

theorem subBytes_shiftRows (b : Block) : subBytes (shiftRows b) = shiftRows (subBytes b) :=
  eq_of_cell _ _ fun i c => by rw [cell_subBytes, cell_shiftRows, cell_shiftRows, cell_subBytes]

theorem invSubBytes_invShiftRows (b : Block) : invSubBytes (invShiftRows b) = invShiftRows (invSubBytes b) :=
  eq_of_cell _ _ fun i c => by rw [cell_invSubBytes, cell_invShiftRows, cell_invShiftRows, cell_invSubBytes]

/-- Settles O37: byte by byte through the S-boxes, column places modulo 4, and `INV_MDS` times `MDS` the unit matrix. -/
theorem inversePairs : Obligations.InversePairs := fun x =>
  ⟨invSubBytes_subBytes x, subBytes_invSubBytes x, invShiftRows_shiftRows x, shiftRows_invShiftRows x,
    invMixColumns_mixColumns x, mixColumns_invMixColumns x, fun ks r => addRoundKey_addRoundKey ks r x,
    subBytes_shiftRows x, invSubBytes_invShiftRows x⟩

end Sys2Proof.Machine
end

section
/-! SUPPORT. The AES steps as descriptors: each commits the block of its data path or raises (R95, R192 to R198,
R240). -/

namespace Sys2Proof.Machine

/-! ## The legal rounds of each kind (R93, R94) -/

theorem legal_ark_iff (ses : Session) (r : Byte) :
    legal ses (.ark r) = true ↔ ses.alg = .aes ∧ r.toNat ≤ sNr ses := by
  simp [legal]

theorem legal_sb_iff (ses : Session) (r : Byte) :
    legal ses (.sb r) = true ↔ ses.alg = .aes ∧ 1 ≤ r.toNat ∧ r.toNat ≤ sNr ses := by
  simp [legal, and_assoc]

theorem legal_sr_iff (ses : Session) (r : Byte) :
    legal ses (.sr r) = true ↔ ses.alg = .aes ∧ 1 ≤ r.toNat ∧ r.toNat ≤ sNr ses := by
  simp [legal, and_assoc]

theorem legal_mc_iff (ses : Session) (r : Byte) :
    legal ses (.mc r) = true ↔ ses.alg = .aes ∧ 1 ≤ r.toNat ∧ r.toNat ≤ sNr ses - 1 := by
  simp [legal, and_assoc]

theorem legal_isb_iff (ses : Session) (r : Byte) :
    legal ses (.isb r) = true ↔ ses.alg = .aes ∧ r.toNat ≤ sNr ses - 1 := by
  simp [legal]

theorem legal_isr_iff (ses : Session) (r : Byte) :
    legal ses (.isr r) = true ↔ ses.alg = .aes ∧ r.toNat ≤ sNr ses - 1 := by
  simp [legal]

theorem legal_imc_iff (ses : Session) (r : Byte) :
    legal ses (.imc r) = true ↔ ses.alg = .aes ∧ 1 ≤ r.toNat ∧ r.toNat ≤ sNr ses - 1 := by
  simp [legal, and_assoc]

/-! ## A step descriptor executed (R95, R192 to R198, R240) -/

/-- `KIND * 256 + ROUND` as a sum of 16-bit words (R92). -/
theorem mkDesc_eq_add (k r : Byte) : mkDesc k r = BitVec.ofNat 16 (256 * k.toNat) + r.setWidth 16 := by
  apply BitVec.eq_of_toNat_eq
  have hk := k.isLt
  have hr := r.isLt
  simp only [mkDesc, BitVec.toNat_append, BitVec.toNat_add, BitVec.toNat_ofNat, BitVec.toNat_setWidth,
    Nat.shiftLeft_eq]
  rw [Nat.mul_comm, ← Nat.two_pow_add_eq_or_of_lt hr]
  omega

/-- A descriptor commits its data path's block where it is legal, with whatever that block gives the new state, and
raises where it is not (R95, R240). -/
theorem exec_descriptor_commits_or_raises {i : Instr} {d : Desc} {s : State} {legalHere : Prop}
    {Result : State → Prop} (hi : isStepInstr i = true) (hd : descOf i = d)
    (hlegal : legal (sessionOf s) i = true ↔ legalHere)
    (hresult : ∀ t, t.st = dataPath i s.ks s.st → Result t) :
    (legalHere → CanComplete d s → ∃ t, exec i s = .next t ∧ Committed d s t ∧ Result t)
      ∧ (¬legalHere → exec i s = .next (raise .badDescriptor s)) := by
  subst hd
  constructor
  · intro hl hc
    obtain ⟨hcommitted, hst⟩ := finishStep_committed (dataPath i s.ks s.st) hc
    exact ⟨_, exec_of_legal (hlegal.mpr hl) hc.1, hcommitted, hresult _ hst⟩
  · intro hl
    rw [exec_descriptor hi, atomicStep, if_neg (mt hlegal.mp hl)]

/-- Settles O8: the byte rule of `addRoundKey`, carried through the commit. -/
theorem addRoundKeyStep : Obligations.AddRoundKeyStep := fun r s =>
  exec_descriptor_commits_or_raises rfl (mkDesc_eq_add 0x01 r) (legal_ark_iff _ r) fun t hst n hn => by
    rw [hst]
    exact readElem_addRoundKey s.ks r.toNat s.st hn

/-- Settles O9: the byte rule of `subBytes`, carried through the commit. -/
theorem subBytesStep : Obligations.SubBytesStep := fun r s =>
  exec_descriptor_commits_or_raises rfl (mkDesc_eq_add 0x02 r) (legal_sb_iff _ r) fun t hst n hn => by
    rw [hst]
    exact readElem_subBytes s.st hn

/-- Settles O10: cell `[i][c]` of `shiftRows` in the flat array. -/
theorem shiftRowsStep : Obligations.ShiftRowsStep := fun r s =>
  exec_descriptor_commits_or_raises rfl (mkDesc_eq_add 0x03 r) (legal_sr_iff _ r) fun t hst i c hi hc => by
    have hcell := cell_shiftRows s.st ⟨i, hi⟩ ⟨c, hc⟩
    rw [← readElem_cell, ← readElem_cell] at hcell
    rw [hst]
    exact hcell

/-- Settles O11: the sum of `mulColumns` in each row, where a factor 1 drops out. -/
theorem mixColumnsStep : Obligations.MixColumnsStep := fun r s =>
  exec_descriptor_commits_or_raises rfl (mkDesc_eq_add 0x04 r) (legal_mc_iff _ r) fun t hst c hc => by
    have hrow := fun i => readElem_mulColumns mds s.st i hc
    have hone : ∀ x, gfMultiply x 1#8 = x := gfMultiply_one_right
    rw [hst]
    refine ⟨(hrow 0).trans ?_, (hrow 1).trans ?_, (hrow 2).trans ?_, (hrow 3).trans ?_⟩ <;>
      simp [xorSum, mds, romMatrix, mdsRows, hone]

/-- Settles O12: the byte rule of `invSubBytes`, carried through the commit. -/
theorem invSubBytesStep : Obligations.InvSubBytesStep := fun r s =>
  exec_descriptor_commits_or_raises rfl (mkDesc_eq_add 0x05 r) (legal_isb_iff _ r) fun t hst n hn => by
    rw [hst]
    exact readElem_invSubBytes s.st hn

/-- Settles O13: cell `[i][c + i]` of `invShiftRows` in the flat array. -/
theorem invShiftRowsStep : Obligations.InvShiftRowsStep := fun r s =>
  exec_descriptor_commits_or_raises rfl (mkDesc_eq_add 0x06 r) (legal_isr_iff _ r) fun t hst i c hi hc => by
    have hcell := cell_invShiftRows s.st ⟨i, hi⟩ (⟨c, hc⟩ + ⟨i, hi⟩)
    rw [add_sub_cancel_right, ← readElem_cell, ← readElem_cell] at hcell
    rw [hst]
    exact hcell

/-- Settles O14: the sum of `mulColumns` in each row. -/
theorem invMixColumnsStep : Obligations.InvMixColumnsStep := fun r s =>
  exec_descriptor_commits_or_raises rfl (mkDesc_eq_add 0x07 r) (legal_imc_iff _ r) fun t hst c hc => by
    have hrow := fun i => readElem_mulColumns invMds s.st i hc
    rw [hst]
    exact ⟨hrow 0, hrow 1, hrow 2, hrow 3⟩

end Sys2Proof.Machine
end

section
/-! SUPPORT. The two step lists of a session against each other: a list of steps undone from its last step to its first
(R200, R217, R218, R251). -/

namespace Sys2Proof.Machine

/-! ## Lists of steps undone one by one -/

theorem replay_append (ks : KeyStore) (is js : List Instr) (b : Block) :
    replay ks (is ++ js) b = replay ks js (replay ks is b) := by
  induction is generalizing b with
  | nil => rfl
  | cons i is ih => exact ih _

/-- Steps that each undo one of a list, taken in reverse order, undo the list. The view `f` is what stands between the
two lists: nothing for AES, the swapped halves for DES (R217). -/
theorem replay_reverse_undo {ks : KeyStore} {f : Block → Block} {is js : List Instr}
    (h : List.Forall₂ (fun i j => ∀ b, dataPath j ks (f (dataPath i ks b)) = f b) is js) (b : Block) :
    replay ks js.reverse (f (replay ks is b)) = f b := by
  induction h generalizing b with
  | nil => rfl
  | @cons i j is js hij _ ih =>
    rw [List.reverse_cons, replay_append]
    change dataPath j ks (replay ks js.reverse (f (replay ks is (dataPath i ks b)))) = f b
    rw [ih, hij]

/-! ## AES: the pairs of R202, whatever their labels (R200) -/

/-- Two AES steps that undo each other: the same round key, or the two steps of a pair of R202, whose `ROUND` is a label
only. -/
def undoes (i j : Instr) : Bool :=
  match i, j with
  | .ark r, .ark r' => r = r'
  | .sb _, .isb _ => true
  | .isb _, .sb _ => true
  | .sr _, .isr _ => true
  | .isr _, .sr _ => true
  | .mc _, .imc _ => true
  | .imc _, .mc _ => true
  | _, _ => false

/-- Two lists of AES steps that undo each other in order. -/
abbrev UndoneInOrder (is js : List Instr) : Prop := List.Forall₂ (fun i j => undoes i j = true) is js

theorem dataPath_of_undoes {i j : Instr} (h : undoes i j = true) (ks : KeyStore) (b : Block) :
    dataPath j ks (dataPath i ks b) = b := by
  unfold undoes at h
  split at h
  · cases of_decide_eq_true h
    exact addRoundKey_addRoundKey ks _ b
  · exact invSubBytes_subBytes b
  · exact subBytes_invSubBytes b
  · exact invShiftRows_shiftRows b
  · exact shiftRows_invShiftRows b
  · exact invMixColumns_mixColumns b
  · exact mixColumns_invMixColumns b
  · cases h

theorem replay_reverse_of_undoes {is js : List Instr} (h : UndoneInOrder is js.reverse) (ks : KeyStore) (b : Block) :
    replay ks js (replay ks is b) = b := by
  have hundo := replay_reverse_undo (f := id) (h.imp fun i j hij => dataPath_of_undoes hij ks) b
  rwa [List.reverse_reverse] at hundo

/-- Step by step, the reverse of one AES list undoes the other (R232). -/
theorem aesSteps_undo (k : KeySize) :
    UndoneInOrder (stepList ⟨.aes, k, .enc⟩) (stepList ⟨.aes, k, .dec⟩).reverse
      ∧ UndoneInOrder (stepList ⟨.aes, k, .dec⟩) (stepList ⟨.aes, k, .enc⟩).reverse := by
  cases k <;> decide

/-! ## DES: the rounds of one list undo those of the other on swapped halves (R217, R218) -/

/-- `R || L` (R216). -/
def swapHalves (x : BitVec 64) : BitVec 64 := rightHalf x ++ leftHalf x

/-- The block with its halves swapped. -/
def desSwap (b : Block) : Block := desStore (swapHalves (desBits b)) b

@[simp] theorem leftHalf_swapHalves (x : BitVec 64) : leftHalf (swapHalves x) = rightHalf x := leftHalf_append _ _

@[simp] theorem rightHalf_swapHalves (x : BitVec 64) : rightHalf (swapHalves x) = leftHalf x := rightHalf_append _ _

@[simp] theorem desStore_desStore (x y : BitVec 64) (b : Block) : desStore x (desStore y b) = desStore x b := by
  refine Vector.ext fun n hn => ?_
  simp only [desStore, Vector.getElem_ofFn, Fin.getElem_fin]
  split <;> rfl

/-- Byte `n` of `B` is `ST[n]` (R23, R66). -/
theorem extractLsb'_desBits (b : Block) {n : Nat} (hn : n < 8) :
    (desBits b).extractLsb' (56 - 8 * n) 8 = readElem b n 0 := by
  refine BitVec.eq_of_getLsbD_eq fun i hi => ?_
  have hheld : bitAt (desBits b) (8 * n + 8 - i)
      = (readElem b ((8 * n + 8 - i - 1) / 8) 0).getLsbD (7 - (8 * n + 8 - i - 1) % 8) :=
    desBits_heldIn b _ (by omega) (by omega)
  have hbyte : (8 * n + 8 - i - 1) / 8 = n := by omega
  have hbit : 7 - (8 * n + 8 - i - 1) % 8 = i := by omega
  have hplace : 64 - 1 - (8 * n + 8 - i - 1) = 56 - 8 * n + i := by omega
  rw [hbyte, hbit, bitAt, BitVec.getMsbD_eq_getLsbD, decide_eq_true (by omega), Bool.true_and, hplace] at hheld
  rw [BitVec.getLsbD_extractLsb', decide_eq_true hi, Bool.true_and, hheld]

@[simp] theorem desStore_desBits (b : Block) : desStore (desBits b) b = b := by
  refine eq_of_readElem _ _ 0 fun n hn => ?_
  rw [desStore, readElem_ofFn, dif_pos hn]
  split
  · exact extractLsb'_desBits b ‹_›
  · exact (readElem_of_lt b 0 hn).symm

theorem feistelRound_undo (k : BitVec 48) (x : BitVec 64) :
    feistelRound k (swapHalves (feistelRound k x)) = swapHalves x := by
  rw [feistelRound, leftHalf_swapHalves, rightHalf_swapHalves, leftHalf_feistelRound, rightHalf_feistelRound,
    xorBits_xorBits_cancel, swapHalves]

theorem initialPermutation_finalPermutation (x : BitVec 64) : initialPermutation (finalPermutation x) = swapHalves x :=
  permute_ip_permute_fp (swapHalves x)

theorem finalPermutation_swapHalves_initialPermutation (x : BitVec 64) :
    finalPermutation (swapHalves (initialPermutation x)) = x := by
  rw [finalPermutation, leftHalf_swapHalves, rightHalf_swapHalves, halves_append]
  exact permute_fp_permute_ip x

theorem desRound_undo (ks : KeyStore) (k : Nat) (b : Block) :
    desRound ks k (desSwap (desRound ks k b)) = desSwap b := by
  simp only [desRound, desSwap, desBits_desStore, desStore_desStore, feistelRound_undo]

theorem desInitial_desFinal (b : Block) : desInitial (desFinal b) = desSwap b := by
  simp only [desInitial, desFinal, desSwap, desBits_desStore, desStore_desStore, initialPermutation_finalPermutation]

theorem desFinal_desSwap_desInitial (b : Block) : desFinal (desSwap (desInitial b)) = b := by
  simp only [desInitial, desFinal, desSwap, desBits_desStore, desStore_desStore,
    finalPermutation_swapHalves_initialPermutation, desStore_desBits]

/-- The DES list that uses the round keys of `keys` in order. -/
def desStepsOf (keys : List Byte) : List Instr := .desIp 0 :: keys.map .desRnd ++ [.desFp 0]

/-- The numbers of the round keys in the order in which a DES session uses them (R233). -/
def desKeyOrder (m : Mode) : List Byte :=
  match m with
  | .enc => (List.range 16).map (BitVec.ofNat 8)
  | .dec => ((List.range 16).map (BitVec.ofNat 8)).reverse

theorem desSteps_eq_desStepsOf (m : Mode) : desSteps m = desStepsOf (desKeyOrder m) := by
  cases m <;> rfl

theorem replay_desStepsOf (ks : KeyStore) (keys : List Byte) (b : Block) :
    replay ks (desStepsOf keys) b = desFinal (replay ks (keys.map .desRnd) (desInitial b)) := by
  rw [desStepsOf, replay_append]
  rfl

/-- The rounds in reverse order undo the rounds, on the halves swapped by `DES_FP` and `DES_IP` (R217, R218). -/
theorem replay_desStepsOf_reverse (ks : KeyStore) (keys : List Byte) (b : Block) :
    replay ks (desStepsOf keys.reverse) (replay ks (desStepsOf keys) b) = b := by
  have hrounds : List.Forall₂ (fun i j => ∀ c, dataPath j ks (desSwap (dataPath i ks c)) = desSwap c)
      (keys.map .desRnd) (keys.map .desRnd) := by
    rw [List.forall₂_same, List.forall_mem_map]
    exact fun k _ => desRound_undo ks k.toNat
  rw [replay_desStepsOf, replay_desStepsOf, desInitial_desFinal, List.map_reverse, replay_reverse_undo hrounds,
    desFinal_desSwap_desInitial]

/-- Settles O42: step by step from the last for AES, and round by round on the swapped halves for DES. -/
theorem stepListsInvert : Obligations.StepListsInvert := by
  rintro ⟨_ | _, k, _⟩ ks b
  · obtain ⟨henc, hdec⟩ := aesSteps_undo k
    exact ⟨replay_reverse_of_undoes henc ks b, replay_reverse_of_undoes hdec ks b⟩
  · change replay ks (desSteps .dec) (replay ks (desSteps .enc) b) = b
      ∧ replay ks (desSteps .enc) (replay ks (desSteps .dec) b) = b
    rw [desSteps_eq_desStepsOf, desSteps_eq_desStepsOf]
    refine ⟨replay_desStepsOf_reverse ks (desKeyOrder .enc) b, ?_⟩
    have hback := replay_desStepsOf_reverse ks (desKeyOrder .dec) b
    rwa [show (desKeyOrder .dec).reverse = desKeyOrder .enc from List.reverse_reverse _] at hback

end Sys2Proof.Machine
end

section
/-! SUPPORT. The Feistel function bit by bit (R157, R158, R211), and the DES steps as descriptors: each commits the
block of its data path or raises (R95, R212 to R216, R240). -/

namespace Sys2Proof.Machine

/-! ## The substitution of the Feistel function (R157, R158, R211) -/

/-- Position `m` of the `n`-th 6-bit block (R211). -/
theorem bitAt_sixBits (x : BitVec 48) {n m : Nat} (hn : 1 ≤ n) (hn8 : n ≤ 8) (hm : 1 ≤ m) (hm6 : m ≤ 6) :
    bitAt (sixBits x n) m = bitAt x (6 * n - 6 + m) := by
  have hplace : 48 - 6 * n + (6 - 1 - (m - 1)) = 48 - 1 - (6 * n - 6 + m - 1) := by omega
  rw [bitAt, bitAt, sixBits, BitVec.getMsbD_eq_getLsbD, BitVec.getMsbD_eq_getLsbD, BitVec.getLsbD_extractLsb', hplace,
    decide_eq_true (by omega), decide_eq_true (by omega), decide_eq_true (by omega), Bool.true_and, Bool.true_and]

/-- The `n`-th S-box output by the positions of the joined string (R158, R211). -/
theorem sboxOut_sixBits (x : BitVec 48) {n : Nat} (hn : 1 ≤ n) (hn8 : n ≤ 8) :
    sboxOut n (sixBits x n)
      = let b := fun m => (bitAt x (6 * n - 6 + m)).toNat
        sdes n (2 * b 1 + b 6) (8 * b 2 + 4 * b 3 + 2 * b 4 + b 5) := by
  have hbit {m : Nat} (hm : 1 ≤ m ∧ m ≤ 6) : bitAt (sixBits x n) m = bitAt x (6 * n - 6 + m) :=
    bitAt_sixBits x hn hn8 hm.1 hm.2
  rw [sboxOut, hbit (by decide), hbit (by decide), hbit (by decide), hbit (by decide), hbit (by decide),
    hbit (by decide)]

/-- The bit-string `x` is the 4-bit strings `v 1, v 2, …` joined, the first leftmost (R211). -/
def JoinedFrom {w : Nat} (x : BitVec w) (v : Nat → BitVec 4) : Prop :=
  ∀ n m, 1 ≤ n → 4 * n ≤ w → 1 ≤ m → m ≤ 4 → bitAt x (4 * n - 4 + m) = bitAt (v n) m

/-- The first string holds the first four positions. -/
theorem joinedFrom_first (v : Nat → BitVec 4) : JoinedFrom (v 1) v := by
  intro n m hn hw hm hm4
  obtain rfl : n = 1 := by omega
  rw [show 4 * 1 - 4 + m = m by omega]

/-- String `k + 1` appended to the `k` strings before it holds the next four positions. -/
theorem JoinedFrom.append {w : Nat} {x : BitVec w} {v : Nat → BitVec 4} (h : JoinedFrom x v) (k : Nat) (hw : w = 4 * k) :
    JoinedFrom (x ++ v (k + 1)) v := by
  intro n m hn hnw hm hm4
  rw [bitAt_append x _ (by omega)]
  split
  · exact h n m hn (by omega) hm hm4
  · obtain rfl : n = k + 1 := by omega
    rw [show 4 * (k + 1) - 4 + m - w = m by omega]

theorem substitute_joinedFrom (x : BitVec 48) : JoinedFrom (substitute x) fun n => sboxOut n (sixBits x n) := by
  have h := joinedFrom_first (fun n => sboxOut n (sixBits x n))
    |>.append 1 rfl |>.append 2 rfl |>.append 3 rfl |>.append 4 rfl |>.append 5 rfl |>.append 6 rfl |>.append 7 rfl
  exact h

/-- Settles O36: the string that is permuted by `P` is the eight S-box outputs joined. -/
theorem feistelFunction : Obligations.FeistelFunction := by
  refine ⟨fun r k => ⟨substitute (xorBits (permute 48 r eTable) k), rfl, ?bits⟩, ?value⟩
  case bits =>
    intro n hn hn8 b v m hm hm4
    have hplace : 4 - 1 - (m - 1) = 4 - m := by omega
    calc bitAt (substitute (xorBits (permute 48 r eTable) k)) (4 * n - 4 + m)
      _ = bitAt (sboxOut n (sixBits (xorBits (permute 48 r eTable) k) n)) m :=
        substitute_joinedFrom _ n m hn (by omega) hm hm4
      _ = bitAt v m := by rw [sboxOut_sixBits _ hn hn8]
      _ = v.getLsbD (4 - m) := by
        rw [bitAt, BitVec.getMsbD_eq_getLsbD, decide_eq_true (by omega), Bool.true_and, hplace]
  case value => decide +kernel

/-! ## The legal rounds of each kind (R93, R94) -/

theorem legal_desIp_iff (ses : Session) (r : Byte) : legal ses (.desIp r) = true ↔ ses.alg = .des ∧ r.toNat = 0 := by
  simp [legal]

theorem legal_desRnd_iff (ses : Session) (k : Byte) : legal ses (.desRnd k) = true ↔ ses.alg = .des ∧ k.toNat ≤ 15 := by
  simp [legal]

theorem legal_desFp_iff (ses : Session) (r : Byte) : legal ses (.desFp r) = true ↔ ses.alg = .des ∧ r.toNat = 0 := by
  simp [legal]

/-! ## A DES step descriptor executed (R95, R212 to R216, R240) -/

/-- The word of a kind with `ROUND = 0` (R92). -/
theorem mkDesc_of_round_zero (kind : Byte) {r : Byte} (hr : r.toNat = 0) : mkDesc kind r = mkDesc kind 0 :=
  congrArg (mkDesc kind) (BitVec.eq_of_toNat_eq hr)

/-- A DES descriptor commits the bits `x` its data path stores and leaves `ST[8..15]` where it is legal, and raises
where it is not (R95, R240, log entry 11). Only a legal descriptor needs to be the word `d`. -/
theorem exec_desStore_commits_or_raises {i : Instr} {d : Desc} {x : BitVec 64} {s : State} {legalHere : Prop}
    {Result : State → Prop} (hi : isStepInstr i = true) (hd : legalHere → descOf i = d)
    (hlegal : legal (sessionOf s) i = true ↔ legalHere) (hpath : dataPath i s.ks s.st = desStore x s.st)
    (hresult : ∀ t, desBits t.st = x →
      (∀ n, 8 ≤ n → n < 16 → readElem s.st n 0 = 0 → readElem t.st n 0 = 0) → Result t) :
    (legalHere → CanComplete d s → ∃ t, exec i s = .next t ∧ Committed d s t ∧ Result t)
      ∧ (¬legalHere → exec i s = .next (raise .badDescriptor s)) := by
  obtain ⟨hcommit, hraise⟩ := exec_descriptor_commits_or_raises hi rfl hlegal (Result := Result) fun t hst => by
    rw [hpath] at hst
    refine hresult t (hst ▸ desBits_desStore x s.st) fun n hn _ hzero => ?_
    rw [hst, readElem_desStore_ge x s.st hn, hzero]
  refine ⟨fun hl => ?_, hraise⟩
  rw [← hd hl]
  exact hcommit hl

/-- Settles O15: the bit rule of `permute` on the table `IP`, carried through the commit. -/
theorem desInitialStep : Obligations.DesInitialStep := fun r _ =>
  exec_desStore_commits_or_raises rfl (fun hl => mkDesc_of_round_zero 0x08 hl.2) (legal_desIp_iff _ r) rfl
    fun _ hbits hzero => by
      rw [hbits]
      exact ⟨fun _ hj hj64 => bitAt_permute _ (by rfl) hj hj64, hzero⟩

/-- Settles O16: the two halves of a Feistel round, carried through the commit. -/
theorem desRoundStep : Obligations.DesRoundStep := fun k _ =>
  exec_desStore_commits_or_raises rfl (fun _ => mkDesc_eq_add 0x09 k) (legal_desRnd_iff _ k) rfl
    fun _ hbits hzero => by
      rw [hbits]
      exact ⟨leftHalf_feistelRound _ _, rightHalf_feistelRound _ _, hzero⟩

/-- Settles O17: the bit rule of `permute` on the table `FP` and the swapped halves, carried through the commit. -/
theorem desFinalStep : Obligations.DesFinalStep := fun r _ =>
  exec_desStore_commits_or_raises rfl (fun hl => mkDesc_of_round_zero 0x0A hl.2) (legal_desFp_iff _ r) rfl
    fun _ hbits hzero => by
      rw [hbits]
      exact ⟨fun _ hj hj64 => bitAt_permute _ (by rfl) hj hj64, hzero⟩

end Sys2Proof.Machine
end

section
/-! SUPPORT. One transition of the sequencer: which instruction a turn runs (R238, R271), the step at the head of the
queue and its two ends (R240, R241), and what each of `RUN`, `PAUSE`, `RESUME`, `STEP` and `RESET` leaves (R242 to
R246). -/

namespace Sys2Proof.Machine

/-! ## The turn taken (R230, R238, R270) -/

/-- An engine turn, given by the script or after its end (R74, R238). -/
theorem step_of_engine {s : State} (h : s.script = [] ∨ ∃ ts, s.script = .engine :: ts) :
    step s = engineTurn (setScript s.script.tail s) := by
  unfold step
  rcases h with h | ⟨ts, h⟩
  · rw [h]
    have e : setScript [] s = s := by rw [← h]; rfl
    exact congrArg engineTurn e.symm
  · rw [h]
    rfl

theorem step_of_host {s : State} {a : HostAct} {ts : List Turn} (h : s.script = .host a :: ts) :
    step s = hostTurn a (setScript s.script.tail s) := by
  unfold step
  rw [h]
  rfl

theorem commandWrite_of_decode {v : Nat} {i : Instr} (h : decodeC8 (BitVec.ofNat 8 v) = .ok i) (s : State) :
    commandWrite v s = exec i s := by
  rw [commandWrite, h]

/-- A fetched descriptor is executed (R239). -/
theorem runFetched_of_decode {s : State} {i : Instr} (hq : s.qhead.toNat < 56)
    (hd : decodeD16 (readElem s.q s.qhead.toNat 0) = .ok i) : runFetched s = exec i s := by
  rw [runFetched, fetchInstr_of_decode hq hd]

/-- An engine turn where no engine transition is enabled (log entry 4). -/
theorem engineTurn_idle {s : State} (h : ¬(s.seq = .running ∧ s.fatal = false)) : engineTurn s = .next s :=
  if_neg (by simpa [engineEnabled] using h)

/-- Settles O6: the engine's fetch, the command code, and the two kinds of register access. -/
theorem stepRunsDecodedInstruction : Obligations.StepRunsDecodedInstruction := by
  intro s u
  refine ⟨fun i hs hr hf hq hd => ?_, fun i a b v ts hs hd => ?_, fun n a b v ts hs hn => ?_, fun n a b ts hs => ?_⟩
  · have hu : engineTurn u = runFetched u := engineTurn_of_running hr hf
    rw [step_of_engine hs, hu]
    exact runFetched_of_decode hq hd
  · rw [step_of_host hs]
    exact commandWrite_of_decode hd _
  · rw [step_of_host hs]
    exact if_neg fun hc => hn ((hostReg_eq_cmd n).mp hc)
  · rw [step_of_host hs]
    rfl

/-- Settles O7: the fetch of a word that decodes is one atomic step, and `RUNNING` has a step queued. -/
theorem engineTransition : Obligations.EngineTransition := by
  refine fun s => ⟨engineTurn_idle, fun i hr hf hq hd => ?_, fun hi hr => hi.step_queued (.inl hr)⟩
  obtain ⟨hi, hdesc⟩ := decodeD16_ok hd
  rw [engineTurn_of_running hr hf, runFetched_of_decode hq hd, exec_descriptor hi, atomicStep, if_pos hq, hdesc]

/-! ## The two ends of a queue (R241) -/

theorem terminalDesc_eq (ses : Session) :
    terminalDesc ses
      = if ses.alg = .aes then (if ses.mode = .enc then 0x0100 + BitVec.ofNat 16 (sNr ses) else 0x0100)
        else 0x0A00 := by
  obtain ⟨a, k, m⟩ := ses
  cases a <;> cases m <;> rfl

/-- The step that drains the queue with the terminal descriptor. -/
theorem finishStep_of_terminal {d : Desc} {s : State} (x : Block) (hq : s.qhead + 1 = s.qlen)
    (hd : d = terminalDesc (sessionOf s)) :
    finishStep d x s = emit (.runComplete (eventBlock s.sAlg x)) (setSeq .complete (commitStep d x s)) := by
  rcases finishStep_cases d x s with ⟨hn, _⟩ | ⟨_, _, e⟩ | ⟨_, hn, _⟩
  · exact absurd hq hn
  · exact e
  · exact absurd hd hn

/-- The step that drains the queue with another descriptor. -/
theorem finishStep_of_mismatch {d : Desc} {s : State} (x : Block) (hq : s.qhead + 1 = s.qlen)
    (hd : d ≠ terminalDesc (sessionOf s)) : finishStep d x s = raise .drainMismatch (commitStep d x s) := by
  rcases finishStep_cases d x s with ⟨hn, _⟩ | ⟨_, hy, _⟩ | ⟨_, _, e⟩
  · exact absurd hq hn
  · exact absurd hy hd
  · exact e

/-- Settles O20: the step is committed either way, and the terminal descriptor decides which end it takes. -/
theorem completion : Obligations.Completion := by
  intro i s hl hq hdrain terminal x records
  have hterminal : terminalDesc (sessionOf s) = terminal := terminalDesc_eq (sessionOf s)
  refine ⟨finishStep (descOf i) x s, exec_of_legal hl hq, finishStep_st _ _ s, ?_, ?_, ?_, fun hd => ?_, fun hd => ?_⟩
  · rw [finishStep_qhead, hdrain]
  · rw [finishStep_hd, readElem_writeElem_self _ _ _ hq]
  · rw [finishStep_hs, readElem_writeElem_self _ _ _ hq]
  · rw [finishStep_of_terminal x hdrain (hd.trans hterminal.symm)]
    exact ⟨rfl, by rw [emit_evt, setSeq_evt, commitStep_evt], rfl, rfl⟩
  · rw [finishStep_of_mismatch x hdrain (hterminal ▸ hd)]
    exact ⟨rfl, by rw [raise_evt, commitStep_evt], rfl, by simp [errorKind]⟩

/-! ## `RUN`, `PAUSE` and `RESUME` (R242 to R244) -/

theorem exec_run {s : State} (h : s.seq = .ready ∧ s.loaded = true ∧ s.fatal = false) :
    exec .run s = .next (setSeq .running s) :=
  congrArg Host.Outcome.next (if_pos h)

theorem exec_run_idle {s : State} (h : ¬(s.seq = .ready ∧ s.loaded = true ∧ s.fatal = false)) : exec .run s = .next s :=
  congrArg Host.Outcome.next (if_neg h)

theorem exec_pause {s : State} (h : s.seq = .running ∧ s.fatal = false) : exec .pause s = .next (setSeq .paused s) :=
  congrArg Host.Outcome.next (if_pos h)

theorem exec_pause_idle {s : State} (h : ¬(s.seq = .running ∧ s.fatal = false)) : exec .pause s = .next s :=
  congrArg Host.Outcome.next (if_neg h)

theorem exec_resume {s : State} (h : s.seq = .paused ∧ s.fatal = false) : exec .resume s = .next (setSeq .running s) :=
  congrArg Host.Outcome.next (if_pos h)

theorem exec_resume_idle {s : State} (h : ¬(s.seq = .paused ∧ s.fatal = false)) : exec .resume s = .next s :=
  congrArg Host.Outcome.next (if_neg h)

/-- Settles O21: each command under its condition and under the condition's negation. -/
theorem runPauseResume : Obligations.RunPauseResume :=
  ⟨rfl, rfl, rfl, fun _ => ⟨exec_run, exec_run_idle, exec_pause, exec_pause_idle, exec_resume, exec_resume_idle⟩⟩

/-! ## `STEP` (R245) -/

theorem exec_step_idle {s : State} (h : ¬(s.loaded = true ∧ s.fatal = false ∧ s.qhead < s.qlen)) :
    exec .step s = .next s :=
  if_neg h

/-- A queued step is the engine's step, then the hold. -/
theorem exec_step_queued {s t : State} (hl : s.loaded = true) (hf : s.fatal = false) (hlt : s.qhead < s.qlen)
    (h : runFetched s = .next t) : exec .step s = .next (holdAfterStep t) := by
  change execStep s = _
  rw [execStep, if_pos ⟨hl, hf, hlt⟩, runQueued_eq_runFetched, h]

@[simp] theorem holdAfterStep_qhead (s : State) : (holdAfterStep s).qhead = s.qhead := by
  unfold holdAfterStep; split <;> rfl

@[simp] theorem holdAfterStep_qlen (s : State) : (holdAfterStep s).qlen = s.qlen := by
  unfold holdAfterStep; split <;> rfl

theorem holdAfterStep_seq {s : State} (hf : s.fatal = false) :
    (holdAfterStep s).seq = if s.seq = .ready then .paused else s.seq := by
  unfold holdAfterStep
  by_cases hr : s.seq = .ready <;> simp [hf, hr]

/-- The hold moves `SEQ` alone: with `SEQ` put back the state is the one before it. -/
theorem setSeq_holdAfterStep {s : State} {x : Seq} (h : s.seq = x) : setSeq x (holdAfterStep s) = s := by
  subst h
  unfold holdAfterStep
  split <;> rfl

/-- `SEQ` after a committed step, by the queue's end before it (R241). -/
theorem Committed.seq_eq {d : Desc} {s t : State} (hc : Committed d s t) :
    t.seq = if t.qhead = s.qlen then .complete else s.seq := by
  obtain ⟨_, _, _, _, hgo, hdone, _⟩ := hc
  split
  · next h => exact (hdone h).1
  · next h => exact (hgo h).1

/-- `SEQ` after a committed step that `STEP` executes (R241, R245). -/
theorem Committed.seq_held {d : Desc} {s t : State} (hc : Committed d s t) (hf : s.fatal = false) :
    (holdAfterStep t).seq
      = if t.qhead = s.qlen then .complete else if s.seq = .ready then .paused else s.seq := by
  have hseq := hc.seq_eq
  obtain ⟨_, _, _, _, _, _, _, hfatal, _⟩ := hc
  rw [holdAfterStep_seq (hfatal.trans hf), hseq]
  by_cases hq : t.qhead = s.qlen <;> simp [hq]

/-- The hold of `STEP` undone, a step is committed as the engine commits it (R245). -/
theorem Committed.hold_undone {d : Desc} {s t : State} (hc : Committed d s t) :
    Committed d s (setSeq (if (holdAfterStep t).qhead = s.qlen then .complete else s.seq) (holdAfterStep t)) := by
  rw [holdAfterStep_qhead, setSeq_holdAfterStep hc.seq_eq]
  exact hc

/-- Settles O22: the engine's step, then the hold, which a step that raised an error does not meet. -/
theorem stepCommand : Obligations.StepCommand := by
  intro s
  refine ⟨exec_step_idle, ?_⟩
  intro i hl hf hlt hq hd d stays
  refine ⟨fun hlegal hcan => ?_, fun hlegal hcan => ?_, fun hlegal => ?_⟩
  · have hstep := exec_step_queued hl hf hlt (runFetched_of_legal hq hd hlegal)
    rw [(decodeD16_ok hd).2] at hstep
    obtain ⟨hc, hst⟩ := finishStep_committed (dataPath i s.ks s.st) hcan
    refine ⟨_, hstep, by rw [holdAfterStep_st, hst], ?_, ?_⟩
    · rw [holdAfterStep_qhead]
      exact hc.seq_held hf
    · exact hc.hold_undone
  · have hstep := exec_step_queued hl hf hlt (runFetched_of_legal hq hd hlegal)
    have hdrain : s.qhead + 1 = s.qlen ∧ d ≠ terminalDesc (sessionOf s) := by
      simpa [CanComplete, hq] using hcan
    rw [(decodeD16_ok hd).2, finishStep_of_mismatch _ hdrain.1 hdrain.2,
      holdAfterStep_of_fatal (by simp [errorKind])] at hstep
    exact ⟨_, hstep, rfl, by simp [errorKind], rfl, rfl⟩
  · have hill : runFetched s = .next (raise .badDescriptor s) := runFetched_of_illegal hq fun j hj => by
      rw [hd] at hj
      cases hj
      exact hlegal
    rw [exec_step_queued hl hf hlt hill, holdAfterStep_of_fatal (by simp [errorKind])]

/-! ## `RESET` (R246, R342) -/

theorem exec_reset (s : State) : exec .reset s = .next (sessionReset s) := rfl

theorem sessionReset_sessionReset (s : State) : sessionReset (sessionReset s) = sessionReset s := rfl

theorem sameHostSide_sessionReset (s : State) : SameHostSide s (sessionReset s) :=
  ⟨rfl, rfl, rfl, rfl, rfl, rfl, rfl⟩

/-- Settles O23: the state of a session reset, which a second one leaves and in which the engine is idle. -/
theorem resetCommand : Obligations.ResetCommand := by
  refine fun s => ⟨sessionReset s, exec_reset s, rfl, fun n hn => ?_, fun n hn => ⟨?_, ?_, ?_⟩, rfl, rfl, rfl, rfl, rfl,
    rfl, rfl, rfl, rfl, rfl, sameHostSide_sessionReset s, rfl, ?_, engineTurn_idle (by simp)⟩
  · simp [Config.ksBytes, hn]
  · simp [Config.qcap, hn]
  · simp [Config.hcap, hn]
  · simp [Config.hcap, hn]
  · rw [exec_reset, sessionReset_sessionReset]

end Sys2Proof.Machine
end

section
/-! SUPPORT. `INIT` in the numbers of the spec (R234 to R237), the table of commands against sequencer states (R247),
and that in the invariant every transition answers a next state (R288, R306, R357). -/

namespace Sys2Proof.Machine

/-! ## The checks of `INIT` (R235, R236) -/

/-- The checks of R235 in their order, on the fields of `CONFIG` as numbers. -/
theorem checkConfig_eq (s : State) :
    checkConfig s.config
      = if 2 ≤ cfgAlg s then .error .badAlg
        else if cfgAlg s = 0 ∧ cfgKeysize s = 3 then .error .badKeysize
        else if 2 ≤ cfgMode s then .error .badMode
        else .ok (configured s) := by
  unfold configured cfgAlg cfgKeysize cfgMode
  generalize s.config = c
  revert c
  decide +kernel

theorem checkConfig_ok {s : State} (h : ConfigOk s) : checkConfig s.config = .ok (configured s) := by
  obtain ⟨ha, hk, hm⟩ := h
  rw [checkConfig_eq, if_neg (by omega), if_neg fun h => hk h.1 h.2, if_neg (by omega)]

/-- A configuration for which a session is built has passed the checks, and the session is the configured one. -/
theorem configOk_of_checkConfig {s : State} {ses : Session} (h : checkConfig s.config = .ok ses) :
    ConfigOk s ∧ ses = configured s := by
  rw [checkConfig_eq] at h
  split_ifs at h with ha hk hm
  cases h
  exact ⟨⟨by omega, fun h0 h3 => hk ⟨h0, h3⟩, by omega⟩, rfl⟩

theorem textLenOf_configured (s : State) : textLenOf (configured s).alg = requiredText s := by
  unfold configured requiredText
  split <;> rfl

theorem keyLenOf_configured {s : State} (h : ConfigOk s) :
    keyLenOf (configured s).alg (configured s).keySize = requiredKey s := by
  revert h
  unfold ConfigOk configured requiredKey cfgAlg cfgKeysize cfgMode
  generalize s.config = c
  revert c
  decide +kernel

theorem not_hasNonHex_iff (buf : Vector Byte Config.bufcap) (n : Nat) : ¬hasNonHex buf n = true ↔ AllHex buf n := by
  rw [hasNonHex_iff, not_not]

/-- The checks of R236 in the numbers of the spec. -/
theorem checkInputs_configured {s : State} (h : ConfigOk s) : checkInputs (configured s) s
    = if s.textLen.toNat ≠ requiredText s then some .textLength
      else if hasNonHex s.textBuf (requiredText s) then some .textNonhex
      else if s.keyLen.toNat ≠ requiredKey s then some .keyLength
      else if hasNonHex s.keyBuf (requiredKey s) then some .keyNonhex
      else none := by
  rw [← textLenOf_configured, ← keyLenOf_configured h]
  rfl

/-! ## `INIT` rejected (R235, R236, R256) -/

/-- An error that is not an internal one changes `ERR` and `EVT` only (R310). -/
theorem raise_recoverable {e : ErrorCode} (he : errorKind e ≠ .internalInvariant) (s : State) :
    raise e s = { s with err := errorByte e, evt := s.evt ++ [.error e] } := by
  simp [raise, he]

theorem exec_init_of_checkConfig {s : State} {e : ErrorCode} (h : checkConfig s.config = .error e) :
    exec .init s = .next (raise e s) := by
  change execInit s = _
  rw [execInit, h]

theorem exec_init_of_checkInputs {s : State} {e : ErrorCode} (hc : ConfigOk s)
    (h : checkInputs (configured s) s = some e) : exec .init s = .next (raise e s) := by
  change execInit s = _
  rw [execInit, checkConfig_ok hc]
  simp only [h]

/-- Settles O25: check by check in the order of the rules, each failing alone after the ones before it passed. -/
theorem initRejected : Obligations.InitRejected := by
  intro s rejects
  have hraise {n : BitVec 8} {e : ErrorCode} (hn : errorByte e = n) (he : errorKind e ≠ .internalInvariant)
      (h : exec .init s = .next (raise e s)) : rejects n e := by
    rw [raise_recoverable he, hn] at h
    exact h
  refine ⟨fun ha => ?alg, fun ha hk => ?keysize, fun ha hk hm => ?mode, fun hc => ⟨fun ht => ?textLength, fun ht =>
    ⟨fun hx => ?textNonhex, fun hx => ⟨fun hk => ?keyLength, fun hk hy => ?keyNonhex⟩⟩⟩⟩
  case alg =>
    refine hraise rfl (by decide) (exec_init_of_checkConfig ?_)
    rw [checkConfig_eq, if_pos ha]
  case keysize =>
    refine hraise rfl (by decide) (exec_init_of_checkConfig ?_)
    rw [checkConfig_eq, if_neg (by omega), if_pos ⟨ha, hk⟩]
  case mode =>
    refine hraise rfl (by decide) (exec_init_of_checkConfig ?_)
    rw [checkConfig_eq, if_neg (by omega), if_neg fun h => hk h.1 h.2, if_pos hm]
  case textLength =>
    refine hraise rfl (by decide) (exec_init_of_checkInputs hc ?_)
    rw [checkInputs_configured hc, if_pos ht]
  case textNonhex =>
    refine hraise rfl (by decide) (exec_init_of_checkInputs hc ?_)
    rw [checkInputs_configured hc, if_neg (not_not_intro ht), if_pos ((hasNonHex_iff _ _).mpr hx)]
  case keyLength =>
    refine hraise rfl (by decide) (exec_init_of_checkInputs hc ?_)
    rw [checkInputs_configured hc, if_neg (not_not_intro ht), if_neg ((not_hasNonHex_iff _ _).mpr hx), if_pos hk]
  case keyNonhex =>
    refine hraise rfl (by decide) (exec_init_of_checkInputs hc ?_)
    rw [checkInputs_configured hc, if_neg (not_not_intro ht), if_neg ((not_hasNonHex_iff _ _).mpr hx),
      if_neg (not_not_intro hk), if_pos ((hasNonHex_iff _ _).mpr hy)]

/-! ## `INIT` accepted (R237) -/

/-- An `INIT` whose checks pass constructs the session of `CONFIG`. -/
theorem exec_init {s : State} (h : InitOk s) : exec .init s = .next (construct (configured s) s) := by
  obtain ⟨hc, ht, hx, hk, hy⟩ := h
  have hnone : checkInputs (configured s) s = none := by
    rw [checkInputs_configured hc, if_neg (not_not_intro ht), if_neg ((not_hasNonHex_iff _ _).mpr hx),
      if_neg (not_not_intro hk), if_neg ((not_hasNonHex_iff _ _).mpr hy)]
  change execInit s = _
  rw [execInit, checkConfig_ok hc]
  simp only [hnone]

/-- An `INIT` that constructs a session has passed its checks. -/
theorem initOk_of_accepted {s : State} {ses : Session} (hc : checkConfig s.config = .ok ses)
    (hi : checkInputs ses s = none) : InitOk s := by
  obtain ⟨hok, rfl⟩ := configOk_of_checkConfig hc
  rw [checkInputs_configured hok] at hi
  split_ifs at hi with ht hx hk hy
  exact ⟨hok, not_not.mp ht, (not_hasNonHex_iff _ _).mp hx, not_not.mp hk, (not_hasNonHex_iff _ _).mp hy⟩

theorem exec_init_rejected {s : State} (h : ¬InitOk s) :
    ∃ e, exec .init s = .next { s with err := errorByte e, evt := s.evt ++ [.error e] } := by
  rcases execInit_cases s with ⟨e, he, hx⟩ | ⟨ses, hc, hi, _⟩
  · exact ⟨e, by rw [hx, raise_recoverable he]⟩
  · exact absurd (initOk_of_accepted hc hi) h

theorem sessionOf_construct (ses : Session) (s : State) : sessionOf (construct ses s) = ses := rfl

theorem sameHostSide_construct (ses : Session) (s : State) : SameHostSide s (construct ses s) := by
  simp [SameHostSide]

/-- The value of a character is a nibble; a character that is none counts 0 (R110). -/
theorem hexval_getD_lt (c : Byte) : ((hexval c).getD 0).toNat < 16 := by
  cases h : hexval c with
  | none => decide
  | some v => exact hexval_lt h

/-- A byte of the parsed text from the values of its two characters, the first the high nibble (R110). -/
theorem hexByte_toNat_getD (buf : Vector Byte Config.bufcap) (m : Nat) :
    (hexByte buf m).toNat
      = 16 * ((hexval (readElem buf (2 * m) 0)).getD 0).toNat
        + ((hexval (readElem buf (2 * m + 1) 0)).getD 0).toNat := by
  have hhigh := hexval_getD_lt (readElem buf (2 * m) 0)
  have hlow := hexval_getD_lt (readElem buf (2 * m + 1) 0)
  rw [hexByte]
  bv_omega

theorem getD_parseBytes (buf : Vector Byte Config.bufcap) {n m : Nat} (hm : m < n) :
    (parseBytes buf n).getD m 0 = hexByte buf m := by
  have hlt : m < (parseBytes buf n).length := by rwa [length_parseBytes]
  rw [List.getD_eq_getElem _ _ hlt, getElem_parseBytes]

/-- Block load: the bytes of the text, then zeros (R190, R210). -/
theorem readElem_loadBlock (blk : List Byte) {n : Nat} (hn : n < 16) :
    readElem (loadBlock blk) n 0 = blk.getD n 0 := by
  rw [loadBlock, readElem_ofFn, dif_pos hn]

theorem readElem_loadBlock_parseBytes (buf : Vector Byte Config.bufcap) (k : Nat) {n : Nat} (hn : n < 16) :
    readElem (loadBlock (parseBytes buf k)) n 0 = if n < k then hexByte buf n else 0 := by
  rw [readElem_loadBlock _ hn]
  split
  · next h => exact getD_parseBytes buf h
  · next h => exact List.getD_eq_default _ _ (by rw [length_parseBytes]; exact Nat.le_of_not_lt h)

/-- Settles O24: the constructed session field by field, text and key bytes from the values of their characters. -/
theorem initAccepted : Obligations.InitAccepted := by
  intro s h ses nibble
  have ⟨hc, _⟩ := h
  refine ⟨construct ses s, exec_init h, sessionOf_construct ses s, fun n hn => ?text,
    ⟨parseBytes s.keyBuf (requiredKey s / 2), length_parseBytes _ _, ?schedule, fun n hn => ?key⟩, rfl, rfl, rfl, rfl,
    fun n hn => ⟨?_, ?_⟩, rfl, rfl, rfl, rfl, sameHostSide_construct ses s, rfl⟩
  case text =>
    rw [construct_st, textLenOf_configured, readElem_loadBlock_parseBytes _ _ hn]
    split
    · exact hexByte_toNat_getD s.textBuf n
    · rfl
  case schedule => rw [construct_ks, keyLenOf_configured hc]
  case key =>
    rw [getD_parseBytes _ hn]
    exact hexByte_toNat_getD s.keyBuf n
  · simp [Config.hcap, hn]
  · simp [Config.hcap, hn]

/-! ## The command table (R247) -/

/-- A loaded session that is not complete has a step queued (R44 (d)). -/
theorem Inv.queued_of_ne_complete {s : State} (hi : Inv s) (hl : s.loaded = true) (hs : s.seq ≠ .complete) :
    s.qhead < s.qlen := by
  obtain ⟨_, hQ, hS, _⟩ := hi
  obtain ⟨_, _, hle, _⟩ := hQ hl
  have hne : s.qhead ≠ s.qlen := fun he => hs ((hS hl).1.mpr he)
  bv_omega

/-- The fetch in the invariant: a queued step is committed (R239, R240). -/
theorem Inv.runFetched_committed {s : State} (hi : Inv s) (hl : s.loaded = true) (hlt : s.qhead < s.qlen) :
    ∃ t, runFetched s = .next t ∧ Committed (readElem s.q s.qhead.toNat 0) s t := by
  obtain ⟨_, hQ, _⟩ := hi
  obtain ⟨hcan, i, hd, hlegal⟩ := hQ.head hl hlt
  have hdesc := (decodeD16_ok hd).2
  refine ⟨_, runFetched_of_legal hcan.1 hd hlegal, ?_⟩
  rw [hdesc]
  exact (finishStep_committed _ hcan).1

/-- `STEP` in the invariant: one step, after which `SEQ` is `COMPLETE` or held (R245). -/
theorem Inv.exec_step {s : State} (hi : Inv s) (hl : s.loaded = true) (hs : s.seq ≠ .complete) :
    ∃ t, exec .step s = .next t ∧ t.qhead = s.qhead + 1
      ∧ t.seq = if t.qhead = t.qlen then .complete else if s.seq = .ready then .paused else s.seq := by
  have ⟨_, _, _, hf, _⟩ := hi
  have hlt := hi.queued_of_ne_complete hl hs
  obtain ⟨t, ht, hc⟩ := hi.runFetched_committed hl hlt
  have hq := hc.qhead_toNat
  obtain ⟨_, _, hqlen, _⟩ := hc.sameElsewhere
  refine ⟨_, exec_step_queued hl hf hlt ht, ?_, ?_⟩
  · rw [holdAfterStep_qhead]
    bv_omega
  · rw [holdAfterStep_qhead, holdAfterStep_qlen, hqlen]
    exact hc.seq_held hf

/-- No list has a single step, so the first step never drains the queue. -/
theorem one_lt_length_stepList (ses : Session) : 1 < (stepList ses).length :=
  (by decide : ∀ ses ∈ allSessions, 1 < (stepList ses).length) ses (mem_allSessions ses)

/-- Before its first step a session has at least one more. -/
theorem Inv.not_last_of_ready {s : State} (hi : Inv s) (hl : s.loaded = true) (hr : s.seq = .ready) :
    s.qhead + 1 ≠ s.qlen := by
  obtain ⟨_, hQ, hS, _⟩ := hi
  obtain ⟨_, hqlen, _⟩ := hQ hl
  have hlen := qlenOf_toNat (sessionOf s)
  have hone := one_lt_length_stepList (sessionOf s)
  rw [(hS hl).2 hr, hqlen]
  intro h
  rw [← h] at hlen
  change 1 = _ at hlen
  omega

/-- Settles O27: each command's condition is met or not met by `SEQ` alone, given the invariant. -/
theorem commandTable : Obligations.CommandTable := by
  refine ⟨fun s hi => ?_, fun s => ⟨fun hf => ?_, ⟨_, exec_reset s, rfl, rfl, rfl⟩,
    fun h => ⟨_, exec_init h, rfl, rfl, rfl⟩, exec_init_rejected, fun code hc => ?_⟩⟩
  · have ⟨_, _, _, hf, _⟩ := hi
    refine ⟨fun hs hl => ?empty, fun hs hl => ?ready, fun hs => ?running, fun hs => ?paused, fun hs => ?complete⟩
    case empty =>
      exact ⟨exec_run_idle (by simp [hl]), exec_pause_idle (by simp [hs]), exec_resume_idle (by simp [hs]),
        exec_step_idle (by simp [hl])⟩
    case ready =>
      have hstep := hi.exec_step hl (by simp [hs])
      rw [if_pos hs] at hstep
      exact ⟨exec_run ⟨hs, hl, hf⟩, exec_pause_idle (by simp [hs]), exec_resume_idle (by simp [hs]), hstep,
        hi.not_last_of_ready hl hs⟩
    case running =>
      have hstep := hi.exec_step (hi.loaded_of_seq (by simp [hs])) (by simp [hs])
      rw [if_neg (by simp [hs]), hs] at hstep
      exact ⟨exec_run_idle (by simp [hs]), exec_pause ⟨hs, hf⟩, exec_resume_idle (by simp [hs]), hstep⟩
    case paused =>
      have hstep := hi.exec_step (hi.loaded_of_seq (by simp [hs])) (by simp [hs])
      rw [if_neg (by simp [hs]), hs] at hstep
      exact ⟨exec_run_idle (by simp [hs]), exec_pause_idle (by simp [hs]), exec_resume ⟨hs, hf⟩, hstep⟩
    case complete =>
      have hl : s.loaded = true := hi.loaded_of_seq (by simp [hs])
      have ⟨_, _, hS, _⟩ := hi
      have hdrained : s.qhead = s.qlen := (hS hl).1.mp hs
      exact ⟨exec_run_idle (by simp [hs]), exec_pause_idle (by simp [hs]), exec_resume_idle (by simp [hs]),
        exec_step_idle fun h => by bv_omega⟩
  · exact ⟨engineTurn_idle (by simp [hf]), exec_run_idle (by simp [hf]), exec_pause_idle (by simp [hf]),
      exec_resume_idle (by simp [hf]), exec_step_idle (by simp [hf])⟩
  · have hlow : (BitVec.ofNat 8 code).toNat = code % 256 := BitVec.toNat_ofNat code 8
    rw [commandWrite, decodeC8_reserved (by rwa [hlow])]

/-! ## No transition stops (R288, R306, R357) -/

theorem Inv.engineTurn_next {s : State} (hi : Inv s) : ∃ t, engineTurn s = .next t := by
  have ⟨_, _, _, hf, _⟩ := hi
  by_cases hr : s.seq = .running
  · obtain ⟨hl, hlt⟩ := hi.step_queued (.inl hr)
    obtain ⟨t, ht, _⟩ := hi.runFetched_committed hl hlt
    exact ⟨t, (engineTurn_of_running hr hf).trans ht⟩
  · exact ⟨s, engineTurn_idle fun h => hr h.1⟩

theorem Inv.exec_step_next {s : State} (hi : Inv s) : ∃ t, exec .step s = .next t := by
  by_cases h : s.loaded = true ∧ s.fatal = false ∧ s.qhead < s.qlen
  · obtain ⟨hl, hf, hlt⟩ := h
    obtain ⟨t, ht, _⟩ := hi.runFetched_committed hl hlt
    exact ⟨_, exec_step_queued hl hf hlt ht⟩
  · exact ⟨s, exec_step_idle h⟩

theorem Inv.commandWrite_next {s : State} (hi : Inv s) (v : Nat) : ∃ t, commandWrite v s = .next t := by
  unfold commandWrite
  split
  · next i hd =>
    have henc := encode_of_decodeC8 hd
    cases i with
    | ark | sb | sr | mc | isb | isr | imc | desIp | desRnd | desFp => cases henc
    | init => rcases execInit_cases s with ⟨_, _, h⟩ | ⟨_, _, _, h⟩ <;> exact ⟨_, h⟩
    | step => exact hi.exec_step_next
    | run | pause | resume | reset => exact ⟨_, rfl⟩
  · exact ⟨s, rfl⟩

theorem Inv.hostTurn_next {s : State} (hi : Inv s) (a : HostAct) : ∃ t, hostTurn a s = .next t := by
  cases a with
  | read n i j => exact ⟨_, rfl⟩
  | write n i j v =>
    unfold hostTurn
    dsimp only
    split
    · exact hi.commandWrite_next v
    · exact ⟨_, rfl⟩

theorem Inv.after_setScript {s : State} (hi : Inv s) (ts : List Turn) : Inv (setScript ts s) :=
  hi.of_sameSession (sameSession_setScript ts s) hi.config

theorem Inv.step_next {s : State} (hi : Inv s) : ∃ t, step s = .next t := by
  match hs : s.script with
  | [] =>
    rw [step_of_engine (.inl hs)]
    exact (hi.after_setScript _).engineTurn_next
  | .engine :: ts =>
    rw [step_of_engine (.inr ⟨ts, hs⟩)]
    exact (hi.after_setScript _).engineTurn_next
  | .host a :: ts =>
    rw [step_of_host hs]
    exact (hi.after_setScript _).hostTurn_next a

/-- The records of a transition from the invariant hold no internal error. -/
theorem Inv.transition_records {s t : State} (hi : Inv s) (h : Transition s t) :
    ∃ es, t.evt = s.evt ++ es ∧ ∀ e, .error e ∈ es → errorKind e ≠ .internalInvariant := by
  cases h with
  | steps i held hd hl _ he hh _ =>
    have hp : s.seq = .running ∨ (s.loaded = true ∧ s.qhead < s.qlen) := by
      cases held
      · exact .inl (he rfl)
      · exact .inr (hh rfl)
    obtain ⟨_, hc⟩ := hi.after_finishStep hd hl hp
    obtain ⟨_, _, _, _, hgo, hdone, _⟩ := hc
    have hevt : (if held then holdAfterStep (finishStep (descOf i) (dataPath i s.ks s.st) s)
        else finishStep (descOf i) (dataPath i s.ks s.st) s).evt
        = (finishStep (descOf i) (dataPath i s.ks s.st) s).evt := by cases held <;> simp
    dsimp only
    rw [hevt]
    by_cases hq : (finishStep (descOf i) (dataPath i s.ks s.st) s).qhead = s.qlen
    · exact ⟨_, (hdone hq).2, by simp⟩
    · exact ⟨_, (hgo hq).2, by simp⟩
  | illegal hp _ hr => exact absurd hr (hi.runFetched_ne_raise hp)
  | rejected e hk => exact ⟨[.error e], rfl, by simpa using hk⟩
  | wrote n i v => exact ⟨[], by simp, by simp⟩
  | none | accepted | run | pause | resume | reset | got => exact ⟨[], by simp, by simp⟩

/-- Settles O53: every turn is answered, the invariant keeps `FATAL` 0, and the records are those of a transition from
the invariant. -/
theorem invNeverStops : Obligations.InvNeverStops := by
  intro s hi
  obtain ⟨t, ht⟩ := hi.step_next
  have ⟨_, _, _, hfatal, _⟩ := stepKeepsInv s t hi ht
  obtain ⟨es, hes, hkind⟩ := (hi.after_setScript _).transition_records (step_cases ht)
  refine ⟨t, ht, hfatal, fun es' e hes' he => hkind e ?_⟩
  have hsame : es' = es := List.append_cancel_left (hes'.symm.trans hes)
  rwa [hsame] at he

end Sys2Proof.Machine
end

section
/-! SUPPORT. The queue of every session entry by entry (R232, R233). -/

namespace Sys2Proof.Machine

/-! ## Rounds of four entries -/

/-- Entry `k` of block `j` where each block before it has four entries: one round of an AES list (R232). -/
theorem getElem?_flatMap_four {α : Type} (js : List Nat) (f : Nat → List α) {j k : Nat} (hj : j < js.length)
    (hfour : ∀ i, (hi : i < j) → (f (js[i]'(by omega))).length = 4) (hk : k < (f js[j]).length) :
    (js.flatMap f)[4 * j + k]? = (f js[j])[k]? := by
  induction js generalizing j with
  | nil => cases hj
  | cons a js ih =>
    rw [List.flatMap_cons]
    cases j with
    | zero =>
      rw [Nat.mul_zero, Nat.zero_add]
      exact List.getElem?_append_left hk
    | succ j =>
      have ha : (f a).length = 4 := hfour 0 (by omega)
      rw [List.getElem?_append_right (by omega), show 4 * (j + 1) + k - (f a).length = 4 * j + k by omega]
      exact ih _ (fun i hi => hfour (i + 1) (by omega)) hk

/-- The descriptor of a list's step `n` stands at entry `n` of the queue. -/
theorem readElem_queueOf_of_getElem? {ses : Session} {n : Nat} {i : Instr} (h : (stepList ses)[n]? = some i) :
    readElem (queueOf ses) n 0 = descOf i := by
  obtain ⟨hn, rfl⟩ := List.getElem?_eq_some_iff.mp h
  exact readElem_queueOf ses hn

theorem readElem_queueOf_ge (ses : Session) {n : Nat} (hlen : (qlenOf ses).toNat ≤ n) (hn : n < 56) :
    readElem (queueOf ses) n 0 = 0x0000 := by
  rw [qlenOf_toNat] at hlen
  rw [queueOf, readElem_ofFn, dif_pos hn]
  exact List.getD_eq_default _ _ (by simpa using hlen)

/-- A descriptor word as a number (R92). -/
theorem mkDesc_ofNat (kind : Nat) {r : Nat} (hr : r < 256) :
    mkDesc (BitVec.ofNat 8 kind) (BitVec.ofNat 8 r) = BitVec.ofNat 16 (256 * kind + r) := by
  have hlow : (BitVec.ofNat 8 r).toNat < 2 ^ 8 := (BitVec.ofNat 8 r).isLt
  refine BitVec.eq_of_toNat_eq ?_
  rw [mkDesc, BitVec.toNat_append, ← Nat.shiftLeft_add_eq_or_of_lt hlow, Nat.shiftLeft_eq, BitVec.toNat_ofNat,
    BitVec.toNat_ofNat, BitVec.toNat_ofNat]
  omega

/-! ## AES encryption -/

/-- The steps of round `j + 1` (R232). -/
def encRound (nr j : Nat) : List Instr :=
  let r := BitVec.ofNat 8 (j + 1)
  if j + 1 < nr then [.sb r, .sr r, .mc r, .ark r] else [.sb r, .sr r, .ark r]

theorem aesEncSteps_eq (nr : Nat) : aesEncSteps nr = .ark 0 :: (List.range nr).flatMap (encRound nr) := rfl

theorem encRound_of_lt {nr j : Nat} (h : j + 1 < nr) :
    encRound nr j = [.sb (BitVec.ofNat 8 (j + 1)), .sr (BitVec.ofNat 8 (j + 1)), .mc (BitVec.ofNat 8 (j + 1)),
      .ark (BitVec.ofNat 8 (j + 1))] := if_pos h

theorem encRound_last {nr j : Nat} (h : ¬j + 1 < nr) :
    encRound nr j = [.sb (BitVec.ofNat 8 (j + 1)), .sr (BitVec.ofNat 8 (j + 1)), .ark (BitVec.ofNat 8 (j + 1))] :=
  if_neg h

theorem encRound_sb (nr j : Nat) : (encRound nr j)[0]? = some (.sb (BitVec.ofNat 8 (j + 1))) := by
  unfold encRound; split <;> rfl

theorem encRound_sr (nr j : Nat) : (encRound nr j)[1]? = some (.sr (BitVec.ofNat 8 (j + 1))) := by
  unfold encRound; split <;> rfl

/-- Step `k` of round `j + 1` stands after `ARK 0` and the `j` rounds of four steps. -/
theorem aesEncSteps_getElem? {nr j k : Nat} {i : Instr} (hj : j < nr) (h : (encRound nr j)[k]? = some i) :
    (aesEncSteps nr)[4 * j + k + 1]? = some i := by
  obtain ⟨hk, _⟩ := List.getElem?_eq_some_iff.mp h
  have hblock := getElem?_flatMap_four (List.range nr) (encRound nr) (j := j) (k := k) (by simpa using hj)
    (fun i hi => by rw [List.getElem_range, encRound_of_lt (by omega)]; rfl) (by simpa using hk)
  rw [aesEncSteps_eq, List.getElem?_cons_succ, hblock, List.getElem_range, h]

/-! ## AES decryption -/

/-- The steps of round `r` (R232). -/
def decRound (r : Nat) : List Instr :=
  let r' := BitVec.ofNat 8 r
  if 0 < r then [.isr r', .isb r', .ark r', .imc r'] else [.isr r', .isb r', .ark r']

theorem aesDecSteps_eq (nr : Nat) :
    aesDecSteps nr = .ark (BitVec.ofNat 8 nr) :: (List.range nr).reverse.flatMap decRound := rfl

theorem decRound_of_pos {r : Nat} (h : 0 < r) :
    decRound r = [.isr (BitVec.ofNat 8 r), .isb (BitVec.ofNat 8 r), .ark (BitVec.ofNat 8 r), .imc (BitVec.ofNat 8 r)] :=
  if_pos h

theorem decRound_isr (r : Nat) : (decRound r)[0]? = some (.isr (BitVec.ofNat 8 r)) := by
  unfold decRound; split <;> rfl

theorem decRound_isb (r : Nat) : (decRound r)[1]? = some (.isb (BitVec.ofNat 8 r)) := by
  unfold decRound; split <;> rfl

theorem decRound_ark (r : Nat) : (decRound r)[2]? = some (.ark (BitVec.ofNat 8 r)) := by
  unfold decRound; split <;> rfl

/-- Step `k` of round `r` stands after `ARK Nr` and the rounds above `r`. -/
theorem aesDecSteps_getElem? {nr r k : Nat} {i : Instr} (hr : r < nr) (h : (decRound r)[k]? = some i) :
    (aesDecSteps nr)[4 * (nr - 1 - r) + k + 1]? = some i := by
  obtain ⟨hk, _⟩ := List.getElem?_eq_some_iff.mp h
  have hround {j : Nat} (hj : j < (List.range nr).reverse.length) : (List.range nr).reverse[j] = nr - 1 - j := by simp
  have hplace : nr - 1 - (nr - 1 - r) = r := by omega
  have hj : nr - 1 - r < (List.range nr).reverse.length := by simp; omega
  have hblock := getElem?_flatMap_four (List.range nr).reverse decRound (k := k) hj
    (fun i hi => by rw [hround, decRound_of_pos (by omega)]; rfl) (by rwa [hround, hplace])
  rw [aesDecSteps_eq, List.getElem?_cons_succ, hblock, hround, hplace, h]

/-! ## DES -/

/-- Round `j` of a DES list uses key `j`, or `15 - j` when decrypting (R233). -/
theorem desSteps_getElem? (m : Mode) {j : Nat} (hj : j ≤ 15) :
    (desSteps m)[1 + j]? = some (.desRnd (BitVec.ofNat 8 (if m = .enc then j else 15 - j))) := by
  have hj16 : j < (List.range 16).length := by simp; omega
  cases m <;> simp [desSteps, List.getElem?_append_left, Nat.add_comm 1 j, Nat.lt_succ_of_le hj]

/-! ## The table -/

/-- The number of rounds of an AES session (R35). -/
theorem sNr_aes {ses : Session} (ha : ses.alg = .aes) : sNr ses = match ses.keySize with
    | .k128 => 10
    | .k192 => 12
    | .k256 => 14 := by
  rw [sNr, ha]
  cases ses.keySize <;> rfl

theorem sNr_aes_bounds {ses : Session} (ha : ses.alg = .aes) : 0 < sNr ses ∧ sNr ses < 256 := by
  rw [sNr, ha]
  cases ses.keySize <;> decide

theorem length_stepList_aes {ses : Session} (ha : ses.alg = .aes) : (stepList ses).length = 4 * sNr ses := by
  obtain ⟨a, k, m⟩ := ses
  cases ha
  cases k <;> cases m <;> rfl

theorem stepList_enc {ses : Session} (ha : ses.alg = .aes) (hm : ses.mode = .enc) :
    stepList ses = aesEncSteps (sNr ses) := by
  rw [stepList, ha, hm]

theorem stepList_dec {ses : Session} (ha : ses.alg = .aes) (hm : ses.mode = .dec) :
    stepList ses = aesDecSteps (sNr ses) := by
  rw [stepList, ha, hm]

theorem stepList_des {ses : Session} (ha : ses.alg = .des) : stepList ses = desSteps ses.mode := by
  rw [stepList, ha]

/-- An entry of the queue as a word: the `KIND` code and the `ROUND` of the step at its place. -/
theorem queueOf_word {ses : Session} {n kind r : Nat} {i : Instr} (h : (stepList ses)[n]? = some i)
    (hi : descOf i = mkDesc (BitVec.ofNat 8 kind) (BitVec.ofNat 8 r)) (hr : r < 256) :
    readElem (queueOf ses) n 0 = BitVec.ofNat 16 (256 * kind + r) := by
  rw [readElem_queueOf_of_getElem? h, hi, mkDesc_ofNat kind hr]

section

variable {ses : Session}

/-- Step `k` of encryption round `j + 1` in the queue. -/
theorem queueOf_encRound (ha : ses.alg = .aes) (hm : ses.mode = .enc) {j k n kind : Nat} {i : Instr} (hj : j < sNr ses)
    (h : (encRound (sNr ses) j)[k]? = some i) (hi : descOf i = mkDesc (BitVec.ofNat 8 kind) (BitVec.ofNat 8 (j + 1)))
    (hn : n = 4 * j + k + 1) : readElem (queueOf ses) n 0 = BitVec.ofNat 16 (256 * kind + (j + 1)) := by
  have hnr := sNr_aes_bounds ha
  refine queueOf_word ?_ hi (by omega)
  rw [stepList_enc ha hm, hn]
  exact aesEncSteps_getElem? hj h

/-- Step `k` of decryption round `r` in the queue. -/
theorem queueOf_decRound (ha : ses.alg = .aes) (hm : ses.mode = .dec) {r k n kind : Nat} {i : Instr} (hr : r < sNr ses)
    (h : (decRound r)[k]? = some i) (hi : descOf i = mkDesc (BitVec.ofNat 8 kind) (BitVec.ofNat 8 r))
    (hn : n = 4 * (sNr ses - 1 - r) + k + 1) :
    readElem (queueOf ses) n 0 = BitVec.ofNat 16 (256 * kind + r) := by
  have hnr := sNr_aes_bounds ha
  refine queueOf_word ?_ hi (by omega)
  rw [stepList_dec ha hm, hn]
  exact aesDecSteps_getElem? hr h

theorem qlenOf_aes (ha : ses.alg = .aes) : (qlenOf ses).toNat = 4 * sNr ses := by
  rw [qlenOf_toNat, length_stepList_aes ha]

theorem qlenOf_des (ha : ses.alg = .des) : (qlenOf ses).toNat = 18 := by
  rw [qlenOf_toNat, stepList_des ha]
  cases ses.mode <;> rfl

end

/-- Settles O40: each list by its rounds, each entry by its place in its round. -/
theorem queueEnumeration : Obligations.QueueEnumeration := by
  intro ses q word nr
  have hnr : ses.alg = .aes → sNr ses = nr := sNr_aes
  refine ⟨fun ha hm => ?enc, fun ha hm => ?dec, fun ha => ?des, fun n => readElem_queueOf_ge ses⟩
  case enc =>
    have hpos := sNr_aes_bounds ha
    rw [← hnr ha]
    refine ⟨qlenOf_aes ha, ?first, ?last, fun r h1 hr => ?round⟩
    case first => exact queueOf_word (i := .ark 0) (by rw [stepList_enc ha hm]; rfl) rfl (by decide)
    case last =>
      have hark : (encRound (sNr ses) (sNr ses - 1))[2]? = some (.ark (BitVec.ofNat 8 (sNr ses - 1 + 1))) := by
        rw [encRound_last (by omega)]
        rfl
      have hlast : sNr ses - 1 + 1 = sNr ses := by omega
      have hentry := queueOf_encRound ha hm (n := 4 * sNr ses - 1) (kind := 1) (by omega) hark rfl (by omega)
      rwa [hlast] at hentry
    case round =>
      obtain ⟨j, rfl⟩ : ∃ j, r = j + 1 := ⟨r - 1, by omega⟩
      refine ⟨queueOf_encRound ha hm (by omega) (encRound_sb _ j) rfl (by omega),
        queueOf_encRound ha hm (by omega) (encRound_sr _ j) rfl (by omega), fun hlt => ?_⟩
      have hround := encRound_of_lt hlt
      exact ⟨queueOf_encRound ha hm (k := 2) (by omega) (by rw [hround]; rfl) rfl (by omega),
        queueOf_encRound ha hm (k := 3) (by omega) (by rw [hround]; rfl) rfl (by omega)⟩
  case dec =>
    have hpos := sNr_aes_bounds ha
    rw [← hnr ha]
    refine ⟨qlenOf_aes ha, ?first, fun r hr => ?round⟩
    case first =>
      exact queueOf_word (i := .ark (BitVec.ofNat 8 (sNr ses))) (by rw [stepList_dec ha hm]; rfl) rfl (by omega)
    case round =>
      exact ⟨queueOf_decRound ha hm hr (decRound_isr r) rfl rfl, queueOf_decRound ha hm hr (decRound_isb r) rfl rfl,
        queueOf_decRound ha hm hr (decRound_ark r) rfl rfl,
        fun h0 => queueOf_decRound ha hm (k := 3) hr (by rw [decRound_of_pos h0]; rfl) rfl rfl⟩
  case des =>
    refine ⟨qlenOf_des ha, ?first, ?last, fun j hj => ?round⟩
    case first => exact queueOf_word (i := .desIp 0) (by rw [stepList_des ha]; rfl) rfl (by decide)
    case last => exact queueOf_word (i := .desFp 0) (by rw [stepList_des ha]; cases ses.mode <;> rfl) rfl (by decide)
    case round => exact queueOf_word (by rw [stepList_des ha]; exact desSteps_getElem? _ hj) rfl (by split <;> omega)

end Sys2Proof.Machine
end

section
/-! SUPPORT. The undisturbed run (R248, R254, R356): the engine finishes one step after the other until the queue is
drained. -/

namespace Sys2Proof.Machine

/-! ## The step at the head of the queue -/

@[simp] theorem finishStep_ks (d : Desc) (x : Block) (s : State) : (finishStep d x s).ks = s.ks := by
  obtain ⟨h, _⟩ := finishStep_elsewhere d x s
  exact h

@[simp] theorem finishStep_q (d : Desc) (x : Block) (s : State) : (finishStep d x s).q = s.q := by
  obtain ⟨_, h, _⟩ := finishStep_elsewhere d x s
  exact h

@[simp] theorem finishStep_qlen (d : Desc) (x : Block) (s : State) : (finishStep d x s).qlen = s.qlen := by
  obtain ⟨_, _, h, _⟩ := finishStep_elsewhere d x s
  exact h

@[simp] theorem finishStep_script (d : Desc) (x : Block) (s : State) : (finishStep d x s).script = s.script := by
  obtain ⟨_, _, _, _, _, _, _, _, _, _, _, _, h, _⟩ := finishStep_elsewhere d x s
  exact h

@[simp] theorem holdAfterStep_script (s : State) : (holdAfterStep s).script = s.script := by
  unfold holdAfterStep; split <;> rfl

/-- The state after the step at the head of the queue, whoever starts it (R239 to R241). -/
def headStep (s : State) : State :=
  finishStep (readElem s.q s.qhead.toNat 0) (dataPathOfDesc (readElem s.q s.qhead.toNat 0) s.ks s.st) s

theorem finishStep_eq_headStep {s : State} {i : Instr} (hd : decodeD16 (readElem s.q s.qhead.toNat 0) = .ok i) :
    finishStep (descOf i) (dataPath i s.ks s.st) s = headStep s := by
  rw [headStep, dataPathOfDesc_ok hd, (decodeD16_ok hd).2]

@[simp] theorem headStep_qhead (s : State) : (headStep s).qhead = s.qhead + 1 := finishStep_qhead _ _ s

@[simp] theorem headStep_qlen (s : State) : (headStep s).qlen = s.qlen := finishStep_qlen _ _ s

/-- The word at the head of a loaded session's queue is the word of the list's step `QHEAD` (R232, R233). -/
theorem QueueInv.decode_head {s : State} (hQ : QueueInv s) (hl : s.loaded = true) (hlt : s.qhead < s.qlen) :
    ∃ h : s.qhead.toNat < (stepList (sessionOf s)).length,
      decodeD16 (readElem s.q s.qhead.toNat 0) = .ok (stepList (sessionOf s))[s.qhead.toNat] := by
  obtain ⟨hq, hlen, _⟩ := hQ hl
  have hn : s.qhead.toNat < (stepList (sessionOf s)).length := by
    rw [← qlenOf_toNat, ← hlen]
    exact hlt
  refine ⟨hn, ?_⟩
  rw [hq, readElem_queueOf _ hn]
  exact decodeD16_descOf _ (isStepInstr_of_legal (legal_of_mem_stepList (List.getElem_mem hn)))

/-! ## A run that only the engine moves -/

/-- A session that runs, with a step queued and no host turn planned. -/
structure Draining (s : State) : Prop where
  running : s.seq = .running
  noFatal : s.fatal = false
  loaded : s.loaded = true
  queue : QueueInv s
  queued : s.qhead < s.qlen
  undisturbed : ∀ turn ∈ s.script, turn = .engine

/-- What is left in `t` when the run of `s` is over: the block of its remaining steps, two records a step and one
`RunComplete` (R241, R254). -/
structure RunEnds (s t : State) : Prop where
  seq : t.seq = .complete
  qhead : t.qhead = s.qlen
  ks : t.ks = s.ks
  session : sessionOf t = sessionOf s
  st : t.st = replay s.ks ((stepList (sessionOf s)).drop s.qhead.toNat) s.st
  evt : ∃ es, t.evt = s.evt ++ es ++ [.runComplete (eventBlock s.sAlg t.st)]
    ∧ es.length = 2 * (s.qlen.toNat - s.qhead.toNat)

section

variable {s t : State}

theorem Inv.draining (hi : Inv s) (hr : s.seq = .running) (hs : ∀ turn ∈ s.script, turn = .engine) : Draining s := by
  obtain ⟨hl, hlt⟩ := hi.step_queued (.inl hr)
  obtain ⟨_, hQ, _, hf, _⟩ := hi
  exact ⟨hr, hf, hl, hQ, hlt, hs⟩

theorem Draining.turn_taken (h : Draining s) : Draining (setScript s.script.tail s) where
  running := h.running
  noFatal := h.noFatal
  loaded := h.loaded
  queue := h.queue
  queued := h.queued
  undisturbed := fun turn ht => h.undisturbed turn (List.mem_of_mem_tail ht)

theorem RunEnds.of_turn_taken {ts : List Turn} (h : RunEnds (setScript ts s) t) : RunEnds s t :=
  ⟨h.seq, h.qhead, h.ks, h.session, h.st, h.evt⟩

/-- The next transition of such a run is the step at the head of the queue. -/
theorem Draining.step_eq (h : Draining s) : step s = .next (headStep (setScript s.script.tail s)) := by
  have hengine : s.script = [] ∨ ∃ ts, s.script = .engine :: ts := by
    match hs : s.script with
    | [] => exact .inl rfl
    | turn :: ts =>
      obtain rfl : turn = .engine := h.undisturbed turn (by simp [hs])
      exact .inr ⟨ts, rfl⟩
  have hu := h.turn_taken
  obtain ⟨hcan, i, hd, hlegal⟩ := hu.queue.head hu.loaded hu.queued
  rw [step_of_engine hengine, engineTurn_of_running hu.running hu.noFatal, runFetched_of_legal hcan.1 hd hlegal,
    finishStep_eq_headStep hd]

theorem Draining.committed (h : Draining s) : Committed (readElem s.q s.qhead.toNat 0) s (headStep s) := by
  obtain ⟨hcan, _⟩ := h.queue.head h.loaded h.queued
  exact (finishStep_committed _ hcan).1

/-- The step at the head of the queue does the first of the remaining steps. -/
theorem Draining.replay_head (h : Draining s) :
    replay s.ks ((stepList (sessionOf s)).drop s.qhead.toNat) s.st
      = replay s.ks ((stepList (sessionOf s)).drop (s.qhead.toNat + 1)) (headStep s).st := by
  obtain ⟨hn, hd⟩ := h.queue.decode_head h.loaded h.queued
  rw [List.drop_eq_getElem_cons hn, headStep, finishStep_st, dataPathOfDesc_ok hd]
  rfl

/-- The step that drains the queue ends the run. -/
theorem Draining.runEnds_of_last (h : Draining s) (hq : (headStep s).qhead = s.qlen) : RunEnds s (headStep s) := by
  have hc := h.committed
  have hq1 := hc.qhead_toNat
  rw [hq] at hq1
  obtain ⟨_, hqlen, _⟩ := h.queue h.loaded
  have hlen : s.qlen.toNat = (stepList (sessionOf s)).length := by rw [hqlen, qlenOf_toNat]
  have hrest : (stepList (sessionOf s)).drop (s.qhead.toNat + 1) = [] := List.drop_eq_nil_of_le (by omega)
  have hst := h.replay_head
  rw [hrest] at hst
  have hses := hc.sameElsewhere.sessionOf_eq
  obtain ⟨hks, _⟩ := hc.sameElsewhere
  obtain ⟨_, _, _, _, _, hdone, _⟩ := hc
  obtain ⟨hseq, hevt⟩ := hdone hq
  exact ⟨hseq, hq, hks, hses, hst.symm, [_, _], by rw [hevt, List.append_assoc]; rfl, by simp; omega⟩

/-- After any other step the run goes on. -/
theorem Draining.after_step (h : Draining s) (hq : (headStep s).qhead ≠ s.qlen) : Draining (headStep s) := by
  have hc := h.committed
  have hq1 := hc.qhead_toNat
  have hlt := h.queued
  have hqueue := h.queue.after_commit hlt hc
  obtain ⟨_, _, hqlen, _, _, _, hl, _, _, _, _, _, hscript, _⟩ := hc.sameElsewhere
  obtain ⟨_, _, _, _, hgo, _, _, hf, _⟩ := hc
  exact ⟨(hgo hq).1.trans h.running, hf.trans h.noFatal, hl.trans h.loaded, hqueue, by bv_omega,
    fun turn ht => h.undisturbed turn (hscript ▸ ht)⟩

/-- The end of the run after that step is the end of the whole run. -/
theorem Draining.runEnds_of_rest (h : Draining s) (hq : (headStep s).qhead ≠ s.qlen) (hr : RunEnds (headStep s) t) :
    RunEnds s t := by
  have hc := h.committed
  have hq1 := hc.qhead_toNat
  have hlt := h.queued
  have hses := hc.sameElsewhere.sessionOf_eq
  obtain ⟨hks, _, hqlen, ha, _⟩ := hc.sameElsewhere
  obtain ⟨_, _, _, _, hgo, _⟩ := hc
  obtain ⟨records, hrecords, htwo⟩ : ∃ es, (headStep s).evt = s.evt ++ es ∧ es.length = 2 := ⟨_, (hgo hq).2, rfl⟩
  obtain ⟨es, hevt, hes⟩ := hr.evt
  rw [hrecords, ha] at hevt
  rw [hq1, hqlen] at hes
  have hst := hr.st
  rw [hks, hses, hq1, ← h.replay_head] at hst
  refine ⟨hr.seq, hr.qhead.trans hqlen, hr.ks.trans hks, hr.session.trans hses, hst, records ++ es, ?_, ?_⟩
  · rw [hevt, List.append_assoc s.evt]
  · rw [List.length_append, htwo, hes]
    bv_omega

theorem runSteps_succ {n : Nat} (h : step s = .next t) : runSteps (n + 1) s = runSteps n t := by
  rw [runSteps, h]

/-- The run is over after one transition for each queued step, by induction on their number. -/
theorem Draining.completes {n : Nat} (h : Draining s) (hn : s.qlen.toNat - s.qhead.toNat = n) :
    ∃ t, runSteps n s = .next t ∧ RunEnds s t := by
  induction n generalizing s with
  | zero =>
    have hlt : s.qhead.toNat < s.qlen.toNat := h.queued
    omega
  | succ n ih =>
    have hu := h.turn_taken
    have hq1 := hu.committed.qhead_toNat
    rw [setScript_qhead] at hq1
    rw [runSteps_succ h.step_eq]
    by_cases hq : (headStep (setScript s.script.tail s)).qhead = s.qlen
    · obtain rfl : n = 0 := by
        rw [hq] at hq1
        omega
      exact ⟨_, rfl, (hu.runEnds_of_last hq).of_turn_taken⟩
    · obtain ⟨t, ht, hr⟩ := ih (hu.after_step hq) (by rw [headStep_qlen, setScript_qlen]; omega)
      exact ⟨t, ht, (hu.runEnds_of_rest hq hr).of_turn_taken⟩

end

/-- Settles O56: a running state of the invariant that only the engine moves is drained step by step. -/
theorem runReachesComplete : Obligations.RunReachesComplete := by
  intro s hi hr hs n
  obtain ⟨t, ht, hend⟩ := (hi.draining hr hs).completes rfl
  obtain ⟨es, hevt, hes⟩ := hend.evt
  exact ⟨t, es, ht, hend.seq, hend.qhead, hend.ks, hend.st, hevt, hes⟩

end Sys2Proof.Machine
end

section
/-! SUPPORT. Two runs of one session compared (R250): whatever turns lie between them, the block, the history and the
run's records depend on the number of steps finished alone. -/

namespace Sys2Proof.Machine

/-- Two states in which a run stands at the same place: the same session, block and history, and the same records but
for `Error`. `SEQ`, the error registers and the host's side may differ. -/
structure SameRun (s t : State) : Prop where
  st : t.st = s.st
  ks : t.ks = s.ks
  q : t.q = s.q
  qlen : t.qlen = s.qlen
  qhead : t.qhead = s.qhead
  hd : t.hd = s.hd
  hs : t.hs = s.hs
  session : sessionOf t = sessionOf s
  evt : t.evt.filter isRunEvent = s.evt.filter isRunEvent

section

variable {s t u r : State}

theorem SameRun.trans (h : SameRun s t) (h' : SameRun t u) : SameRun s u :=
  ⟨h'.st.trans h.st, h'.ks.trans h.ks, h'.q.trans h.q, h'.qlen.trans h.qlen, h'.qhead.trans h.qhead, h'.hd.trans h.hd,
    h'.hs.trans h.hs, h'.session.trans h.session, h'.evt.trans h.evt⟩

theorem SameStorage.sameRun (h : SameStorage s t) (he : t.evt.filter isRunEvent = s.evt.filter isRunEvent) :
    SameRun s t :=
  ⟨h.st, h.ks, h.q, h.qlen, h.qhead, h.hd, h.hs, h.session, he⟩

theorem sameRun_setScript (ts : List Turn) (s : State) : SameRun s (setScript ts s) :=
  (sameSession_setScript ts s).sameStorage.sameRun rfl

/-! ## A step depends on the place of the run alone -/

/-- The records a finished step adds to those of the run (R241, R254). -/
theorem finishStep_runEvents (d : Desc) (x : Block) (s : State) :
    (finishStep d x s).evt.filter isRunEvent
      = s.evt.filter isRunEvent ++ [.stepStart d, .stepComplete d (eventBlock s.sAlg x)]
        ++ if s.qhead + 1 = s.qlen ∧ d = terminalDesc (sessionOf s) then [.runComplete (eventBlock s.sAlg x)]
          else [] := by
  rcases finishStep_cases d x s with ⟨hq, e⟩ | ⟨hq, hd, e⟩ | ⟨hq, hd, e⟩ <;> rw [e]
  · rw [if_neg fun h => hq h.1]
    simp [isRunEvent]
  · rw [if_pos ⟨hq, hd⟩]
    simp [isRunEvent]
  · rw [if_neg fun h => hd h.2]
    simp [isRunEvent, List.filter_cons]

theorem SameRun.finishStep_congr (h : SameRun s t) (d : Desc) (x : Block) :
    SameRun (finishStep d x s) (finishStep d x t) where
  st := by rw [finishStep_st, finishStep_st]
  ks := by rw [finishStep_ks, finishStep_ks, h.ks]
  q := by rw [finishStep_q, finishStep_q, h.q]
  qlen := by rw [finishStep_qlen, finishStep_qlen, h.qlen]
  qhead := by rw [finishStep_qhead, finishStep_qhead, h.qhead]
  hd := by rw [finishStep_hd, finishStep_hd, h.hd, h.qhead]
  hs := by rw [finishStep_hs, finishStep_hs, h.hs, h.qhead]
  session := by rw [(finishStep_elsewhere d x t).sessionOf_eq, (finishStep_elsewhere d x s).sessionOf_eq, h.session]
  evt := by
    have ha : t.sAlg = s.sAlg := congrArg Session.alg h.session
    rw [finishStep_runEvents, finishStep_runEvents, h.evt, h.qhead, h.qlen, h.session, ha]

theorem SameRun.headStep_congr (h : SameRun s t) : SameRun (headStep s) (headStep t) := by
  have hd : readElem t.q t.qhead.toNat 0 = readElem s.q s.qhead.toNat 0 := by rw [h.q, h.qhead]
  unfold headStep
  rw [hd, h.ks, h.st]
  exact h.finishStep_congr _ _

/-! ## A turn that keeps the session finishes the next step of its run, or none -/

/-- What a transition adds to the records of the run: nothing, or those of the step by which `QHEAD` advances. -/
theorem Transition.runEvents (h : Transition s t) :
    (t.evt.filter isRunEvent = s.evt.filter isRunEvent ∧ (t.qhead = s.qhead ∨ t.qhead = 0))
      ∨ (t.evt = (headStep s).evt ∧ t.qhead = s.qhead + 1) := by
  cases h with
  | steps i held hd =>
    rw [finishStep_eq_headStep hd]
    cases held <;> exact .inr (by simp)
  | illegal | rejected => exact .inl ⟨by simp [isRunEvent], .inl rfl⟩
  | accepted | reset => exact .inl ⟨by simp, .inr rfl⟩
  | none | run | pause | resume | wrote | got => exact .inl ⟨by simp, .inl (by simp)⟩

/-- A turn that neither starts nor discards a session leaves its run where it is, or one step further. -/
theorem step_sameRun (h : step s = .next t) (hk : nextKeepsSession s = true) :
    SameRun s t ∨ (s.qhead.toNat < 56 ∧ SameRun (headStep s) t) := by
  have hu := sameRun_setScript s.script.tail s
  have hevents := (step_cases h).runEvents
  cases step_sessionKept h hk with
  | same hst =>
    rcases hevents with ⟨he, _⟩ | ⟨_, hq⟩
    · exact .inl (hu.trans (hst.sameRun he))
    · have hsame := hst.qhead
      bv_omega
  | stepped i hd hq hst =>
    rw [finishStep_eq_headStep hd] at hst
    have hq1 := hst.qhead
    rw [headStep_qhead] at hq1
    refine .inr ⟨hq, hu.headStep_congr.trans (hst.sameRun ?_)⟩
    rcases hevents with ⟨_, h0⟩ | ⟨he, _⟩
    · bv_omega
    · rw [he]

/-! ## Runs of a newly built session -/

/-- The run of `s` stands in `t` where its first `QHEAD` steps lead. -/
def OnTrack (s t : State) : Prop := SameRun (headStep^[t.qhead.toNat] s) t

theorem OnTrack.after_step (h : OnTrack s t) (hr : step t = .next r) (hk : nextKeepsSession t = true) :
    OnTrack s r := by
  rcases step_sameRun hr hk with hsame | ⟨hq, hnext⟩
  · rw [OnTrack, hsame.qhead]
    exact SameRun.trans h hsame
  · have hq1 : r.qhead.toNat = t.qhead.toNat + 1 := by
      rw [hnext.qhead, headStep_qhead, toNat_succ_of_lt hq]
    rw [OnTrack, hq1, Function.iterate_succ_apply']
    exact (SameRun.headStep_congr h).trans hnext

theorem Transition.script (h : Transition s t) : t.script = s.script := by
  cases h with
  | steps i held => cases held <;> simp
  | none | illegal | rejected | accepted | run | pause | resume | reset | wrote | got => simp

/-- The turn taken leaves the script (log entry 1). -/
theorem step_script (h : step s = .next t) : t.script = s.script.tail :=
  (step_cases h).script

theorem OnTrack.after_runSteps {ts : List Turn} (h : OnTrack s t) (hts : t.script = ts)
    (hk : ∀ turn ∈ ts, keepsSession turn = true)
    (hr : runSteps ts.length t = .next r) : OnTrack s r := by
  induction ts generalizing t with
  | nil =>
    cases hr
    exact h
  | cons turn ts ih =>
    rw [List.length_cons, runSteps] at hr
    split at hr
    · next t' ht =>
      have hnext : nextKeepsSession t = true := by
        rw [nextKeepsSession, hts]
        exact hk turn (by simp)
      refine ih (h.after_step ht hnext) ?_ (fun x hx => hk x (by simp [hx])) hr
      rw [step_script ht, hts, List.tail_cons]
    · cases hr
    · cases hr

theorem Inv.after_runSteps {n : Nat} (hi : Inv s) (h : runSteps n s = .next t) : Inv t := by
  induction n generalizing s with
  | zero =>
    cases h
    exact hi
  | succ n ih =>
    rw [runSteps] at h
    split at h
    · next t' ht => exact ih (stepKeepsInv s t' hi ht) h
    · cases h
    · cases h

theorem iterate_headStep_qlen (n : Nat) (s : State) : (headStep^[n] s).qlen = s.qlen := by
  induction n with
  | zero => rfl
  | succ n ih => rw [Function.iterate_succ_apply', headStep_qlen, ih]

theorem OnTrack.qlen (h : OnTrack s t) : t.qlen = s.qlen :=
  (SameRun.qlen h).trans (iterate_headStep_qlen _ s)

/-- Two states on the track of one session with the same `QHEAD` stand at the same place. -/
theorem OnTrack.eq_of_qhead (ht : OnTrack s t) (hu : OnTrack s u) (hq : t.qhead = u.qhead) :
    t.st = u.st ∧ t.hd = u.hd ∧ t.hs = u.hs ∧ t.evt.filter isRunEvent = u.evt.filter isRunEvent := by
  rw [OnTrack, hq] at ht
  have hu' : SameRun _ u := hu
  exact ⟨ht.st.trans hu'.st.symm, ht.hd.trans hu'.hd.symm, ht.hs.trans hu'.hs.symm, ht.evt.trans hu'.evt.symm⟩

/-- A write of a command code performs the command (R271). -/
theorem step_of_cmd {code : Byte} {i : Instr} {ts : List Turn} (hs : s.script = cmd code :: ts)
    (hd : decodeC8 code = .ok i) : step s = exec i (setScript ts s) := by
  rw [step_of_host hs, hs]
  exact commandWrite_of_decode (by simpa using hd) _

end

/-- The run that `RUN` starts and only the engine moves (R242, R248). -/
theorem Inv.run_completes {s : State} (hi : Inv s) (hl : s.loaded = true) (hr : s.seq = .ready) :
    ∃ u, runSteps (s.qlen.toNat + 1) (setScript (cmd 0x02 :: engine s.qlen.toNat) s) = .next u
      ∧ u.seq = .complete ∧ u.qhead = s.qlen := by
  have ⟨_, _, hS, hf, _⟩ := hi
  have hq : s.qhead = 0 := (hS hl).2 hr
  have hstep : step (setScript (cmd 0x02 :: engine s.qlen.toNat) s)
      = .next (setSeq .running (setScript (engine s.qlen.toNat) s)) := by
    rw [step_of_cmd rfl rfl]
    exact exec_run ⟨hr, hl, hf⟩
  have hrunning : Inv (setSeq .running (setScript (engine s.qlen.toNat) s)) :=
    (hi.after_setScript (engine s.qlen.toNat)).after_setSeq hl (by simp [hr]) (.inl rfl)
  obtain ⟨u, hu, hend⟩ := (hrunning.draining rfl fun _ => List.eq_of_mem_replicate).completes rfl
  rw [setSeq_qhead, setScript_qhead, hq] at hu
  exact ⟨u, (runSteps_succ hstep).trans hu, hend.seq, hend.qhead⟩

/-- Settles O57: both runs stay on the track of the session, and both stand at its end. -/
theorem pauseResumeNonInterference : Obligations.PauseResumeNonInterference := by
  intro s ts t hi hl hr hts hrun hcomplete
  have hstart {l : List Turn} : OnTrack s (setScript l s) := by
    have ⟨_, _, hS, _⟩ := hi
    rw [OnTrack, setScript_qhead, (hS hl).2 hr]
    exact sameRun_setScript l s
  have ht : OnTrack s t := hstart.after_runSteps rfl hts hrun
  have hti : Inv t := (hi.after_setScript ts).after_runSteps hrun
  have htq : t.qhead = s.qlen := by
    have htl : t.loaded = true := hti.loaded_of_seq (by simp [hcomplete])
    have ⟨_, _, hS, _⟩ := hti
    exact ((hS htl).1.mp hcomplete).trans ht.qlen
  obtain ⟨u, hu, hucomplete, huq⟩ := hi.run_completes hl hr
  have hkeeps : ∀ turn ∈ cmd 0x02 :: engine s.qlen.toNat, keepsSession turn = true := by
    intro turn hmem
    rcases List.mem_cons.mp hmem with rfl | hmem
    · rfl
    · rw [List.eq_of_mem_replicate hmem]
      rfl
  have hlen : (cmd 0x02 :: engine s.qlen.toNat).length = s.qlen.toNat + 1 := by simp [engine]
  have htrack : OnTrack s u := hstart.after_runSteps rfl hkeeps (hlen ▸ hu)
  exact ⟨u, hu, hucomplete, ht.eq_of_qhead htrack (htq.trans huq.symm)⟩

end Sys2Proof.Machine
end

section
/-! SUPPORT. Whole runs: `INIT`, `RUN` and an undisturbed run give the block of the session's step list (R237, R248,
R250), from which the round trip (R251) and the known vectors (R252) follow. -/

namespace Sys2Proof.Machine

/-! ## `INIT`, `RUN` and the run -/

/-- The key store of the session that an accepted `INIT` constructs. -/
def initialKeys (s : State) : KeyStore := keySchedule (configured s) (parseBytes s.keyBuf (requiredKey s / 2))

/-- Its block. -/
def initialBlock (s : State) : Block := loadBlock (parseBytes s.textBuf (requiredText s / 2))

theorem configured_des {s : State} (h : (configured s).alg = .des) : (configured s).keySize = .k128 := by
  unfold configured at h ⊢
  by_cases ha : cfgAlg s = 0
  · simp [ha] at h
  · simp [ha]

/-- A session just built and set running is drained undisturbed. -/
theorem draining_construct {ses : Session} (hdes : ses.alg = .des → ses.keySize = .k128) {s : State}
    (hs : ∀ turn ∈ s.script, turn = .engine) : Draining (setSeq .running (construct ses s)) where
  running := rfl
  noFatal := rfl
  loaded := rfl
  queue := fun _ => ⟨rfl, rfl, Nat.zero_le _, hdes⟩
  queued := by
    change 0 < (qlenOf ses).toNat
    rw [qlenOf_toNat]
    exact (length_stepList ses).1
  undisturbed := by rwa [setSeq_script, construct_script]

/-- An accepted `INIT`, `RUN` and the run (R237, R242, R248). -/
theorem wholeRun_completes {s : State} (h : InitOk s) :
    ∃ t, wholeRun s = .next t ∧ t.seq = .complete ∧ sessionOf t = configured s
      ∧ t.st = replay (initialKeys s) (stepList (configured s)) (initialBlock s) := by
  have ⟨hc, _⟩ := h
  have hinit (ts : List Turn) : step (setScript (cmd 0x01 :: ts) s)
      = .next (construct (configured s) (setScript ts s)) :=
    (step_of_cmd rfl rfl).trans (exec_init h)
  have hrun (ts : List Turn) : step (construct (configured s) (setScript (cmd 0x02 :: ts) s))
      = .next (setSeq .running (construct (configured s) (setScript ts s))) :=
    (step_of_cmd rfl rfl).trans (exec_run ⟨rfl, rfl, rfl⟩)
  have hdrain : Draining (setSeq .running
      (construct (configured s) (setScript (engine (qlenOf (configured s)).toNat) s))) :=
    draining_construct configured_des fun _ => List.eq_of_mem_replicate
  obtain ⟨t, ht, hend⟩ := hdrain.completes rfl
  refine ⟨t, ?_, hend.seq, hend.session, hend.st.trans ?_⟩
  · rw [wholeRun, runSteps_succ (hinit _), runSteps_succ (hrun _)]
    exact ht
  · rw [setSeq_ks, setSeq_st, construct_ks, construct_st, textLenOf_configured, keyLenOf_configured hc]
    rfl

/-! ## Inputs that read alike -/

theorem parseBytes_congr {a b : Vector Byte Config.bufcap} {k : Nat}
    (h : ∀ n, n < 2 * k → readElem a n 0 = readElem b n 0) : parseBytes a k = parseBytes b k := by
  refine List.map_congr_left fun m hm => ?_
  have hmk : m < k := List.mem_range.mp hm
  rw [hexByte, hexByte, h (2 * m) (by omega), h (2 * m + 1) (by omega)]

/-- The same settings, lengths and characters as far as `INIT` reads them. -/
structure SameInputs (s t : State) : Prop where
  config : t.config = s.config
  textLen : t.textLen = s.textLen
  keyLen : t.keyLen = s.keyLen
  text : ∀ n, n < requiredText s → readElem t.textBuf n 0 = readElem s.textBuf n 0
  key : ∀ n, n < requiredKey s → readElem t.keyBuf n 0 = readElem s.keyBuf n 0

section

variable {s t : State}

theorem SameInputs.requiredText_eq (h : SameInputs s t) : requiredText t = requiredText s := by
  simp only [requiredText, cfgAlg, h.config]

theorem SameInputs.requiredKey_eq (h : SameInputs s t) : requiredKey t = requiredKey s := by
  simp only [requiredKey, cfgAlg, cfgKeysize, h.config]

theorem SameInputs.configured_eq (h : SameInputs s t) : configured t = configured s := by
  simp only [configured, cfgAlg, cfgKeysize, cfgMode, h.config]

theorem SameInputs.initOk (h : SameInputs s t) (hs : InitOk s) : InitOk t := by
  obtain ⟨hc, htl, htext, hkl, hkey⟩ := hs
  refine ⟨?_, ?_, fun n hn => ?_, ?_, fun n hn => ?_⟩
  · simpa only [ConfigOk, cfgAlg, cfgKeysize, cfgMode, h.config] using hc
  · rw [h.textLen, h.requiredText_eq, htl]
  · rw [h.requiredText_eq] at hn
    rw [h.text n hn]
    exact htext n hn
  · rw [h.keyLen, h.requiredKey_eq, hkl]
  · rw [h.requiredKey_eq] at hn
    rw [h.key n hn]
    exact hkey n hn

theorem SameInputs.initialKeys_eq (h : SameInputs s t) : initialKeys t = initialKeys s := by
  rw [initialKeys, initialKeys, h.configured_eq, h.requiredKey_eq,
    parseBytes_congr fun n hn => h.key n (by omega)]

theorem SameInputs.initialBlock_eq (h : SameInputs s t) : initialBlock t = initialBlock s := by
  rw [initialBlock, initialBlock, h.requiredText_eq, parseBytes_congr fun n hn => h.text n (by omega)]

end

/-! ## The known vectors (R252) -/

/-- A buffer that holds a text from its start, zeros after it. -/
def textBuffer (text : List Byte) : Vector Byte Config.bufcap := Vector.ofFn fun n : Fin 64 => text.getD n.val 0

theorem readElem_textBuffer (text : List Byte) {n : Nat} (hn : n < 64) :
    readElem (textBuffer text) n 0 = text.getD n 0 := by
  rw [textBuffer, readElem_ofFn, dif_pos hn]

/-- The machine after power-on with `CONFIG` and the two inputs written. -/
def inputState (config : BitVec 8) (text key : List Byte) : State :=
  { State.reset with
    config := config
    textBuf := textBuffer text
    textLen := BitVec.ofNat 8 text.length
    keyBuf := textBuffer key
    keyLen := BitVec.ofNat 8 key.length }

/-- A state that holds the inputs reads like that one. -/
theorem sameInputs_of_holds {s : State} {config : BitVec 8} {text key : List Byte} (hc : s.config = config)
    (htl : s.textLen = BitVec.ofNat 8 text.length) (hkl : s.keyLen = BitVec.ofNat 8 key.length)
    (ht : Holds s.textBuf text) (hk : Holds s.keyBuf key)
    (htext : requiredText (inputState config text key) = text.length ∧ text.length ≤ 64)
    (hkey : requiredKey (inputState config text key) = key.length ∧ key.length ≤ 64) :
    SameInputs (inputState config text key) s where
  config := hc
  textLen := htl
  keyLen := hkl
  text := fun n hn => by
    rw [htext.1] at hn
    rw [ht n hn]
    exact (readElem_textBuffer text (by omega)).symm
  key := fun n hn => by
    rw [hkey.1] at hn
    rw [hk n hn]
    exact (readElem_textBuffer key (by omega)).symm

/-- `OUT_HEX` after the run of a session (R280): its replayed step list. -/
def sessionOutput (s : State) (n : Nat) : Byte :=
  outHex { State.reset with
    sAlg := (configured s).alg
    st := replay (initialKeys s) (stepList (configured s)) (initialBlock s) } n

theorem outHex_of_wholeRun {s t : State} (hses : sessionOf t = configured s)
    (hst : t.st = replay (initialKeys s) (stepList (configured s)) (initialBlock s)) (n : Nat) :
    outHex t n = sessionOutput s n := by
  rw [sessionOutput, ← hst, ← hses]
  rfl

/-- A run on the inputs of `s` ends with the output of `s`'s session, wherever else it starts. -/
theorem wholeRun_output {s t : State} (h : InitOk s) (hst : SameInputs s t) :
    ∃ r, wholeRun t = .next r ∧ r.seq = .complete ∧ ∀ n, outHex r n = sessionOutput s n := by
  obtain ⟨r, hr, hseq, hses, hblock⟩ := wholeRun_completes (hst.initOk h)
  rw [hst.configured_eq] at hses
  rw [hst.initialKeys_eq, hst.configured_eq, hst.initialBlock_eq] at hblock
  exact ⟨r, hr, hseq, outHex_of_wholeRun hses hblock⟩

/-- The inputs of the AES-128 vector. -/
def aesVector : State :=
  inputState 0x00 (charCodes "00112233445566778899aabbccddeeff") (charCodes "000102030405060708090a0b0c0d0e0f")

/-- The inputs of the DES vector. -/
def desVector : State := inputState 0x01 (charCodes "0123456789ABCDEF") (charCodes "133457799BBCDFF1")

theorem sessionOutput_aesVector :
    (List.range 32).map (sessionOutput aesVector) = charCodes "69C4E0D86A7B0430D8CDB78070B4C55A" := by
  decide +kernel

theorem sessionOutput_desVector :
    (List.range 16).map (sessionOutput desVector) = charCodes "85E813540F0AB405" := by
  decide +kernel

/-- Settles O59: the state reads like the vector's inputs, whose session's output is computed by replay. -/
theorem knownVectors : Obligations.KnownVectors := by
  constructor
  · intro s hc htl hkl ht hk
    have hsame : SameInputs aesVector s := sameInputs_of_holds hc htl hkl ht hk (by decide) (by decide)
    obtain ⟨r, hr, hseq, hout⟩ := wholeRun_output (by decide +kernel) hsame
    exact ⟨r, hr, hseq, (List.map_congr_left fun n _ => hout n).trans sessionOutput_aesVector⟩
  · intro s hc htl hkl ht hk
    have hsame : SameInputs desVector s := sameInputs_of_holds hc htl hkl ht hk (by decide) (by decide)
    obtain ⟨r, hr, hseq, hout⟩ := wholeRun_output (by decide +kernel) hsame
    exact ⟨r, hr, hseq, (List.map_congr_left fun n _ => hout n).trans sessionOutput_desVector⟩

/-! ## The round trip (R251) -/

theorem requiredText_eq_two_mul (s : State) : requiredText s = 2 * sBb (configured s).alg := by
  rw [← textLenOf_configured]
  cases (configured s).alg <;> rfl

/-- The hexadecimal text of the output parses to the output (R110, R280). -/
theorem hexByte_of_outHex {e : State} {buf : Vector Byte Config.bufcap} {m : Nat} (hm : m < sBb e.sAlg)
    (h : ∀ n, n < 2 * sBb e.sAlg → readElem buf n 0 = outHex e n) : hexByte buf m = readElem e.st m 0 := by
  have hhigh : outHex e (2 * m) = hexchar ((readElem e.st m 0).extractLsb' 4 4) := by
    rw [outHex, if_pos (by omega), show 2 * m / 2 = m by omega, if_pos (by omega)]
  have hlow : outHex e (2 * m + 1) = hexchar ((readElem e.st m 0).extractLsb' 0 4) := by
    rw [outHex, if_pos (by omega), show (2 * m + 1) / 2 = m by omega, if_neg (by omega)]
  have ha := hexval_hexchar ((readElem e.st m 0).extractLsb' 4 4)
  have hb := hexval_hexchar ((readElem e.st m 0).extractLsb' 0 4)
  rw [← hhigh, ← h (2 * m) (by omega)] at ha
  rw [← hlow, ← h (2 * m + 1) (by omega)] at hb
  exact BitVec.eq_of_toNat_eq ((hexByte_toNat ha hb).trans (toNat_nibbles _))

/-- The steps of a DES session leave bytes 8 to 15 (R23). -/
theorem readElem_replay_ge {ses : Session} (ha : ses.alg = .des) (ks : KeyStore) {is : List Instr}
    (hl : ∀ i ∈ is, legal ses i = true) (b : Block) {n : Nat} (hn : 8 ≤ n) :
    readElem (replay ks is b) n 0 = readElem b n 0 := by
  induction is generalizing b with
  | nil => rfl
  | cons i is ih =>
    obtain ⟨k, hi⟩ := legal_des (hl i (by simp)) ha
    exact (ih (fun j hj => hl j (by simp [hj])) _).trans (readElem_dataPath_ge hi ks b hn)

/-- Bytes past the session's block are 0 at the start of a run and stay 0 (R23, R190, R210). -/
theorem readElem_replayed_ge (s : State) {n : Nat} (h : sBb (configured s).alg ≤ n) (hn : n < 16) :
    readElem (replay (initialKeys s) (stepList (configured s)) (initialBlock s)) n 0 = 0 := by
  have hdes : (configured s).alg = .des := by
    cases ha : (configured s).alg with
    | aes =>
      rw [ha] at h
      exact absurd hn (Nat.not_lt.mpr h)
    | des => rfl
  have h8 : 8 ≤ n := by rwa [hdes] at h
  rw [readElem_replay_ge hdes _ (fun _ => legal_of_mem_stepList) _ h8, initialBlock,
    readElem_loadBlock_parseBytes _ _ hn, if_neg (by rw [requiredText_eq_two_mul]; omega)]

/-- The two sessions of a round trip have one key schedule (R170). -/
theorem initialKeys_of_mode {s s' : State} {m : Mode} (hs : InitOk s) (hs' : InitOk s')
    (hc : configured s' = { configured s with mode := m })
    (hkey : ∀ n, n < requiredKey s → readElem s'.keyBuf n 0 = readElem s.keyBuf n 0) :
    initialKeys s' = initialKeys s := by
  have hlen : requiredKey s' = requiredKey s := by
    obtain ⟨hok, _⟩ := hs
    obtain ⟨hok', _⟩ := hs'
    rw [← keyLenOf_configured hok, ← keyLenOf_configured hok', hc]
  rw [initialKeys, initialKeys, hlen, hc, parseBytes_congr fun n hn => hkey n (by omega)]
  rfl

/-- The second session starts from the block with which the first one ended. -/
theorem initialBlock_of_output {s s' e : State} {m : Mode} (hc : configured s' = { configured s with mode := m })
    (hses : sessionOf e = configured s)
    (hst : e.st = replay (initialKeys s) (stepList (configured s)) (initialBlock s))
    (htext : ∀ n, n < requiredText s → readElem s'.textBuf n 0 = outHex e n) : initialBlock s' = e.st := by
  have halg : e.sAlg = (configured s).alg := congrArg Session.alg hses
  have hlen : requiredText s' = 2 * sBb (configured s).alg := by rw [requiredText_eq_two_mul, hc]
  rw [requiredText_eq_two_mul, ← halg] at htext
  refine eq_of_readElem _ _ 0 fun n hn => ?_
  rw [initialBlock, readElem_loadBlock_parseBytes _ _ hn, hlen]
  split
  · next h => exact hexByte_of_outHex (by rw [halg]; omega) htext
  · next h => rw [hst, readElem_replayed_ge s (by omega) hn]

/-- Settles O58: under the one key schedule the decrypting list undoes the encrypting one, from the block that the
output's text stands for. -/
theorem roundTrip : Obligations.RoundTrip := by
  intro s hs hmode
  obtain ⟨e, he, heseq, heses, hest⟩ := wholeRun_completes hs
  refine ⟨e, he, heseq, fun s' hs' hc hkey htext => ?_⟩
  obtain ⟨d, hd, hdseq, _, hdst⟩ := wholeRun_completes hs'
  refine ⟨d, hd, hdseq, fun n hn => ?_⟩
  have henc : { configured s with mode := .enc } = configured s := by
    simp [configured, hmode]
  have hback : d.st = initialBlock s := by
    obtain ⟨hundo, _⟩ := stepListsInvert (configured s) (initialKeys s) (initialBlock s)
    rw [hdst, initialKeys_of_mode hs hs' hc hkey, initialBlock_of_output hc heses hest htext, hest, hc]
    rwa [henc] at hundo
  have hn16 : n < 16 := by
    rw [requiredText_eq_two_mul] at hn
    cases ha : (configured s).alg <;> rw [ha] at hn <;> simp only [sBb] at hn <;> omega
  rw [hback, initialBlock, readElem_loadBlock_parseBytes _ _ hn16, if_pos hn]

end Sys2Proof.Machine
end

section
/-! SUPPORT. The host register space as reads and writes see it (R104, R270 to R280), and the binary rendering of a byte
sequence (R282). -/

namespace Sys2Proof.Machine

/-! ## Elements past an array's end -/

theorem writeElem_of_ge {α : Type} {n i : Nat} (v : Vector α n) (x : α) (h : n ≤ i) : writeElem v i x = v :=
  dif_neg (Nat.not_lt.mpr h)

/-- A byte array of zeros reads 0 at every index. -/
theorem readElem_zeroBlock (n : Nat) : readElem zeroBlock n 0 = 0 := by
  rw [readElem_replicate]
  exact ite_self _

/-- An 8-bit element that is 0 is read as 0 (R275). -/
theorem setWidth_zero_byte : (0 : Byte).setWidth 16 = 0 := rfl

/-! ## Host writes (R270 to R274) -/

/-- A write of any register but `CMD` only stores (R270). -/
theorem hostTurn_write {n : Byte} (h : n ≠ 0x00) (i j v : Nat) (s : State) :
    hostTurn (.write n i j v) s = .next (hostWrite n i v s) :=
  if_neg fun hc => h ((hostReg_eq_cmd n).mp hc)

theorem hostWrite_textBuf_eq (i v : Nat) (s : State) :
    hostWrite 0x20 i v s = { s with textBuf := writeElem s.textBuf i (BitVec.ofNat 8 v) } := rfl

theorem hostWrite_keyBuf_eq (i v : Nat) (s : State) :
    hostWrite 0x21 i v s = { s with keyBuf := writeElem s.keyBuf i (BitVec.ofNat 8 v) } := rfl

/-- An 8-bit register takes `value & 0xFF` (R273, R274). -/
theorem ofNat_byte_mod (v : Nat) : BitVec.ofNat 8 (v % 256) = BitVec.ofNat 8 v :=
  BitVec.eq_of_toNat_eq (Nat.mod_mod _ _)

/-- `CONFIG` takes `value & 0x3F` (R272). -/
theorem ofNat_and_config (v : Nat) : BitVec.ofNat 8 v &&& 0x3F = BitVec.ofNat 8 (v % 64) := by
  have hmask : (BitVec.ofNat 8 v &&& 0x3F).toNat = v % 256 % 64 := by
    rw [BitVec.toNat_and, BitVec.toNat_ofNat]
    exact Nat.and_two_pow_sub_one_eq_mod (v % 256) 6
  apply BitVec.eq_of_toNat_eq
  rw [hmask, BitVec.toNat_ofNat]
  omega

/-- A buffer after a write of element `i` (R274). -/
theorem readElem_writeElem_byte (buf : Vector Byte Config.bufcap) (i v : Nat) {n : Nat} (hn : n < 64) :
    readElem (writeElem buf i (BitVec.ofNat 8 v)) n 0
      = if n = i then BitVec.ofNat 8 (v % 256) else readElem buf n 0 := by
  rw [readElem_writeElem, ofNat_byte_mod]
  simp only [Config.bufcap, hn, and_true]

/-- Settles O43: the register of each writable number, its mask, and the element of a buffer. -/
theorem hostWrites : Obligations.HostWrites := by
  intro s i j v
  refine ⟨?_, ?_, ?_, ⟨_, hostTurn_write (by decide) i j v s, fun n => readElem_writeElem_byte _ i v⟩,
    ⟨_, hostTurn_write (by decide) i j v s, fun n => readElem_writeElem_byte _ i v⟩, fun hi => ⟨?_, ?_⟩, fun n hn => ?_⟩
  · rw [← ofNat_and_config]
    exact hostTurn_write (by decide) i j v s
  · rw [ofNat_byte_mod]
    exact hostTurn_write (by decide) i j v s
  · rw [ofNat_byte_mod]
    exact hostTurn_write (by decide) i j v s
  · rw [hostTurn_write (by decide), hostWrite_textBuf_eq, writeElem_of_ge _ _ hi]
  · rw [hostTurn_write (by decide), hostWrite_keyBuf_eq, writeElem_of_ge _ _ hi]
  · have hcmd : n ≠ 0x00 := by
      rintro rfl
      simp at hn
    rw [hostTurn_write hcmd, hostWrite_ignored hn]

/-! ## What each indexed register reads (R276 to R280) -/

section
variable (i j : Nat) (s : State)

theorem hostRead_textBuf : hostRead 0x20 i j s = (readElem s.textBuf i 0).setWidth 16 := rfl
theorem hostRead_keyBuf : hostRead 0x21 i j s = (readElem s.keyBuf i 0).setWidth 16 := rfl
theorem hostRead_state : hostRead 0x30 i j s = (readElem s.st i 0).setWidth 16 := rfl
theorem hostRead_outHex : hostRead 0x31 i j s = (outHex s i).setWidth 16 := rfl
theorem hostRead_rkey : hostRead 0x32 i j s = (rkey s i j).setWidth 16 := rfl
theorem hostRead_queue : hostRead 0x33 i j s = readElem s.q i 0 := rfl
theorem hostRead_histDesc : hostRead 0x34 i j s = readElem s.hd i 0 := rfl
theorem hostRead_histSnap :
    hostRead 0x35 i j s = (readElem (readElem s.hs i zeroBlock) j 0).setWidth 16 := rfl

end

/-! ## Reads observe, and read 0 where there is no element (R65, R275) -/

/-- A read sees the machine alone, not the values the host has received before (R275). -/
theorem hostRead_receive (v : BitVec 16) (n : Byte) (i j : Nat) (s : State) :
    hostRead n i j (receive v s) = hostRead n i j s := rfl

/-- The numbers that hold a register a read reaches (R104). -/
theorem hostReg_readable (n : Byte) :
    n.toNat ∈ [0x01, 0x02, 0x03, 0x04, 0x05, 0x06, 0x07, 0x08, 0x09, 0x0A, 0x10, 0x11, 0x20, 0x21, 0x30, 0x31, 0x32,
        0x33, 0x34, 0x35]
      ∨ hostReg n = some .cmd ∨ hostReg n = none := by
  revert n; decide +kernel

/-- `CMD` and the unmapped numbers read 0 (R65, R101, R275). -/
theorem hostRead_unreadable {n : Byte} (h : hostReg n = some .cmd ∨ hostReg n = none) (i j : Nat) (s : State) :
    hostRead n i j s = 0 := by
  rcases h with h | h
  · rw [hostRead, h]
    rfl
  · rw [hostRead, h]

theorem outHex_of_ge {s : State} {n : Nat} (h : 2 * sBb s.sAlg ≤ n) : outHex s n = 0 :=
  if_neg (Nat.not_lt.mpr h)

theorem two_mul_sBb (a : Alg) : 2 * sBb a = if a = .aes then 32 else 16 := by
  cases a <;> rfl

theorem rkey_aes {s : State} (ha : s.sAlg = .aes) (r n : Nat) :
    rkey s r n = if r ≤ 14 ∧ n ≤ 15 then readElem s.ks (16 * r + n) 0 else 0 := by
  rw [rkey, ha]

theorem rkey_des {s : State} (ha : s.sAlg = .des) (r n : Nat) :
    rkey s r n = if r ≤ 15 ∧ n ≤ 5 then readElem s.ks (6 * r + n) 0 else 0 := by
  rw [rkey, ha]

/-- Settles O44: the register map, and each indexed register at and past its last index. -/
theorem hostReads : Obligations.HostReads := by
  intro s i j
  refine ⟨fun n => ⟨rfl, hostRead_receive _ n i j s⟩,
    fun n hn => hostRead_unreadable ((hostReg_readable n).resolve_left hn) i j s, fun h => ⟨?_, ?_⟩, fun h => ?_,
    fun h => ?_, fun ha h => ?_, fun ha h => ?_, fun h => ⟨?_, ?_, ?_⟩, fun h => ?_,
    fun _ => ⟨hostRead_textBuf i j s, hostRead_keyBuf i j s⟩, rfl, rfl, rfl, rfl, rfl, rfl⟩
  · rw [hostRead_textBuf, readElem_of_ge _ _ h, setWidth_zero_byte]
  · rw [hostRead_keyBuf, readElem_of_ge _ _ h, setWidth_zero_byte]
  · rw [hostRead_state, readElem_of_ge _ _ h, setWidth_zero_byte]
  · have hend : 2 * sBb s.sAlg ≤ i := by
      rw [two_mul_sBb]
      split <;> omega
    rw [hostRead_outHex, outHex_of_ge hend, setWidth_zero_byte]
  · rw [hostRead_rkey, rkey_aes ha, if_neg (by omega), setWidth_zero_byte]
  · rw [hostRead_rkey, rkey_des ha, if_neg (by omega), setWidth_zero_byte]
  · rw [hostRead_queue, readElem_of_ge _ _ h]
  · rw [hostRead_histDesc, readElem_of_ge _ _ h]
  · rw [hostRead_histSnap, readElem_of_ge _ _ h, readElem_zeroBlock, setWidth_zero_byte]
  · rw [hostRead_histSnap, readElem_of_ge _ _ h, setWidth_zero_byte]

/-! ## `STATE` and `OUT_HEX` (R111, R276, R280) -/

theorem hexchar_toNat (v : BitVec 4) :
    (hexchar v).toNat = if v.toNat ≤ 9 then 0x30 + v.toNat else 0x41 + v.toNat - 10 := by
  revert v; decide

/-- The nibble of `OUT_HEX[n]`: the high one of its byte when `n` is even, the low one when it is odd (R280). -/
def outNibble (s : State) (n : Nat) : BitVec 4 :=
  (readElem s.st (n / 2) 0).extractLsb' (if n % 2 = 0 then 4 else 0) 4

theorem outHex_of_lt {s : State} {n : Nat} (h : n < 2 * sBb s.sAlg) : outHex s n = hexchar (outNibble s n) := by
  rw [outHex, if_pos h, outNibble]
  split <;> rfl

theorem outNibble_toNat (s : State) (n : Nat) :
    (outNibble s n).toNat
      = if n % 2 = 0 then (readElem s.st (n / 2) 0).toNat / 16 else (readElem s.st (n / 2) 0).toNat % 16 := by
  have hbyte := (readElem s.st (n / 2) 0).isLt
  rw [outNibble, BitVec.extractLsb'_toNat, Nat.shiftRight_eq_div_pow]
  split <;> omega

/-- In a DES session bytes 8 to 15 of the block are 0, and there is no byte beyond (R23, R276). -/
theorem DesBytesInv.readElem_st_ge {s : State} (hD : DesBytesInv s) (ha : s.sAlg = .des) {n : Nat} (h8 : 8 ≤ n) :
    readElem s.st n 0 = 0 := by
  obtain ⟨hst, _⟩ := hD ha
  by_cases hn : n < 16
  · exact hst n hn h8
  · exact readElem_of_ge _ _ (Nat.le_of_not_lt hn)

/-- Settles O46: the character of each nibble of the block, and 0 past the session's block. -/
theorem statePorts : Obligations.StatePorts := by
  intro s n j
  rw [← two_mul_sBb]
  refine ⟨fun _ => hostRead_state n j s, fun hn => ?_, fun hn => ?_, fun hi ha h8 => ?_⟩
  · have hwide : ((outHex s n).setWidth 16).toNat = (outHex s n).toNat := BitVec.toNat_setWidth_of_le (by decide)
    rw [hostRead_outHex, hwide, outHex_of_lt hn, hexchar_toNat, outNibble_toNat]
  · rw [hostRead_outHex, outHex_of_ge hn, setWidth_zero_byte]
  · obtain ⟨_, _, _, _, hD, _⟩ := hi.session
    rw [hostRead_state, hD.readElem_st_ge ha h8, setWidth_zero_byte]

/-! ## The session's arrays past their used part (R277 to R279) -/

/-- The queue is zero past its length, with or without a session (R27, R277). -/
theorem Inv.readElem_q_ge {s : State} (hi : Inv s) {n : Nat} (hlen : s.qlen.toNat ≤ n) : readElem s.q n 0 = 0 := by
  by_cases hn : n < 56
  · cases hl : s.loaded with
    | false =>
      rw [(hi.unloaded hl).q, readElem_replicate]
      exact ite_self _
    | true =>
      obtain ⟨hQ, _⟩ := hi.session
      obtain ⟨hq, hqlen, _⟩ := hQ hl
      rw [hqlen] at hlen
      rw [hq, readElem_queueOf_ge _ hlen hn]
  · exact readElem_of_ge _ _ (Nat.le_of_not_lt hn)

/-- The history is zero from `QHEAD` on (R29, R279). -/
theorem HistoryInv.readElem_ge {s : State} (hH : HistoryInv s) {n : Nat} (hn : s.qhead.toNat ≤ n) :
    readElem s.hd n 0 = 0 ∧ readElem s.hs n zeroBlock = zeroBlock := by
  obtain ⟨_, hempty, _⟩ := hH
  by_cases h56 : n < 56
  · exact hempty n h56 hn
  · exact ⟨readElem_of_ge _ _ (Nat.le_of_not_lt h56), readElem_of_ge _ _ (Nat.le_of_not_lt h56)⟩

/-- In a DES session bytes 8 to 15 of every snapshot are 0, and there is no byte beyond (R23, R279). -/
theorem DesBytesInv.readElem_hs_ge {s : State} (hD : DesBytesInv s) (ha : s.sAlg = .des) (e : Nat) {n : Nat}
    (h8 : 8 ≤ n) : readElem (readElem s.hs e zeroBlock) n 0 = 0 := by
  obtain ⟨_, hsnap⟩ := hD ha
  by_cases he : e < 56
  · by_cases hn : n < 16
    · exact hsnap e he n hn h8
    · exact readElem_of_ge _ _ (Nat.le_of_not_lt hn)
  · rw [readElem_of_ge _ _ (Nat.le_of_not_lt he), readElem_zeroBlock]

/-- Round keys past the last one of an AES session read 0 (R24, R278). -/
theorem KeyStoreInv.rkey_past_last {s : State} (hK : KeyStoreInv s) (ha : s.sAlg = .aes) {r : Nat}
    (hr : sNr (sessionOf s) < r) (n : Nat) : rkey s r n = 0 := by
  rw [rkey_aes ha]
  split
  · next hin =>
    refine hK _ (by omega) ?_
    rw [ha]
    dsimp only
    omega
  · rfl

/-- Settles O47: each port reads its array, and the invariant gives the zeros past the array's used part. -/
theorem sessionPorts : Obligations.SessionPorts := by
  intro s n j hi
  obtain ⟨_, _, hH, _, hD, hK, _⟩ := hi.session
  refine ⟨fun _ => ⟨hostRead_queue n j s, hostRead_histDesc n j s⟩, fun _ _ => hostRead_histSnap n j s, fun h => ?_,
    fun h => ?_, fun ha h8 => ?_, fun ha hn hj => ?_, fun ha hn => ?_, fun ha hn hj => ?_⟩
  · rw [hostRead_queue, hi.readElem_q_ge h]
  · obtain ⟨hhd, hhs⟩ := hH.readElem_ge h
    rw [hostRead_histDesc, hostRead_histSnap, hhd, hhs, readElem_zeroBlock, setWidth_zero_byte]
    exact ⟨rfl, rfl⟩
  · rw [hostRead_histSnap, hD.readElem_hs_ge ha n h8, setWidth_zero_byte]
  · rw [hostRead_rkey, rkey_aes ha, if_pos ⟨hn, hj⟩]
  · rw [hostRead_rkey, hK.rkey_past_last ha hn, setWidth_zero_byte]
  · rw [hostRead_rkey, rkey_des ha, if_pos ⟨hn, hj⟩]

/-! ## The binary rendering (R282) -/

theorem length_byteDigits (x : Byte) : (byteDigits x).length = 8 := by
  rw [byteDigits, List.length_map, List.length_range]

/-- Digit `p` of a byte stands for its bit `7 - p`: the most significant bit comes first. -/
theorem byteDigits_getD (x : Byte) {p : Nat} (hp : p < 8) :
    (byteDigits x).getD p 0 = if x.getLsbD (7 - p) then 0x31 else 0x30 := by
  have hbit : x.getMsbD p = x.getLsbD (7 - p) := by simp [BitVec.getMsbD, hp]
  rw [byteDigits, List.getD_eq_getElem _ _ (by simpa using hp), List.getElem_map, List.getElem_range, hbit]

theorem binText_cons_cons (x y : Byte) (zs : List Byte) :
    binText (x :: y :: zs) = byteDigits x ++ 0x20 :: binText (y :: zs) := rfl

theorem length_binText (x : Byte) (xs : List Byte) : (binText (x :: xs)).length = 9 * xs.length + 8 := by
  induction xs generalizing x with
  | nil => exact length_byteDigits x
  | cons y zs ih =>
    rw [binText_cons_cons, List.length_append, List.length_cons, length_byteDigits, ih, List.length_cons]
    omega

/-- The first group is the first byte's digits, whether or not another byte follows. -/
theorem binText_getD_head (x : Byte) (xs : List Byte) {p : Nat} (hp : p < 8) :
    (binText (x :: xs)).getD p 0 = (byteDigits x).getD p 0 := by
  cases xs with
  | nil => rfl
  | cons y zs =>
    rw [binText_cons_cons]
    exact List.getD_append _ _ _ _ (by rwa [length_byteDigits])

/-- Past the first group and its space the text is that of the remaining bytes. -/
theorem binText_getD_tail (x y : Byte) (zs : List Byte) (k : Nat) :
    (binText (x :: y :: zs)).getD (9 + k) 0 = (binText (y :: zs)).getD k 0 := by
  rw [binText_cons_cons, List.getD_append_right _ _ _ _ (by rw [length_byteDigits]; omega), length_byteDigits,
    show 9 + k - 8 = k + 1 by omega, List.getD_cons_succ]

/-- Group `m` is the digits of byte `m`. -/
theorem binText_getD_digit {xs : List Byte} {m p : Nat} (hm : m < xs.length) (hp : p < 8) :
    (binText xs).getD (9 * m + p) 0 = (byteDigits (xs.getD m 0)).getD p 0 := by
  induction xs generalizing m with
  | nil => cases hm
  | cons x xs ih =>
    cases m with
    | zero =>
      rw [Nat.mul_zero, Nat.zero_add]
      exact binText_getD_head x xs hp
    | succ m =>
      cases xs with
      | nil => simp at hm
      | cons y zs =>
        rw [show 9 * (m + 1) + p = 9 + (9 * m + p) by omega, binText_getD_tail, List.getD_cons_succ]
        exact ih (Nat.lt_of_succ_lt_succ hm)

/-- A space follows every group but the last. -/
theorem binText_getD_space {xs : List Byte} {m : Nat} (hm : m + 1 < xs.length) :
    (binText xs).getD (9 * m + 8) 0 = 0x20 := by
  induction xs generalizing m with
  | nil => cases hm
  | cons x xs ih =>
    cases xs with
    | nil => simp at hm
    | cons y zs =>
      cases m with
      | zero =>
        have hlen := length_byteDigits x
        rw [binText_cons_cons, List.getD_append_right _ _ _ _ (by omega), hlen]
        rfl
      | succ m =>
        rw [show 9 * (m + 1) + 8 = 9 + (9 * m + 8) by omega, binText_getD_tail]
        exact ih (Nat.lt_of_succ_lt_succ hm)

/-- Settles O49: groups of eight digits, a space after each but the last. -/
theorem binaryRendering : Obligations.BinaryRendering := by
  intro xs hne
  refine ⟨?_, fun m hm => ⟨fun p hp => ?_, binText_getD_space⟩⟩
  · obtain ⟨x, rest, rfl⟩ := List.exists_cons_of_ne_nil hne
    rw [length_binText, List.length_cons]
    omega
  · rw [binText_getD_digit hm hp, byteDigits_getD _ hp]

end Sys2Proof.Machine
end

section
/-! SUPPORT. The error table (R302) and the error entry (R310). -/

namespace Sys2Proof.Machine

/-- The codes of kind 3 are the two of R306. -/
theorem errorKind_eq_internalInvariant_iff (e : ErrorCode) :
    errorKind e = .internalInvariant ↔ e = .badDescriptor ∨ e = .drainMismatch := by
  cases e <;> decide

/-- Settles O28: the nine bytes one by one, and `raise` by the two codes that set `FATAL`. -/
theorem errorEntry : Obligations.ErrorEntry := by
  refine ⟨rfl, rfl, rfl, rfl, rfl, rfl, rfl, rfl, rfl, fun e s => ?_⟩
  simp only [raise, errorKind_eq_internalInvariant_iff, Bool.decide_or]

end Sys2Proof.Machine
end

section
/-! SUPPORT. `RESET` before `INIT` (R342, R343): the checks and the construction of `INIT` read only `CONFIG` and the
input buffers, which a session reset keeps. -/

namespace Sys2Proof.Machine

theorem sameInputs_sessionReset (s : State) : SameInputs s (sessionReset s) :=
  ⟨rfl, rfl, rfl, fun _ _ => rfl, fun _ _ => rfl⟩

/-- The construction of R237 begins with a session reset, so one before it is absorbed. -/
theorem construct_sessionReset (ses : Session) (s : State) : construct ses (sessionReset s) = construct ses s := by
  simp only [construct, sessionReset_sessionReset, sessionReset_keyBuf, sessionReset_textBuf]

/-- Settles O26: after `RESET` the checks pass as before, and `INIT` constructs the same session. -/
theorem initEqualsResetThenInit : Obligations.InitEqualsResetThenInit := by
  intro s h
  have hsame := sameInputs_sessionReset s
  have hreset : exec .init (sessionReset s) = .next (construct (configured s) s) := by
    rw [exec_init (hsame.initOk h), hsame.configured_eq, construct_sessionReset]
  exact ⟨construct (configured s) s, sessionReset s, exec_init h, exec_reset s, hreset⟩

end Sys2Proof.Machine
end
